-- ==== Sys2Proof/Word.lean ====
section
/-! DEFINITION. The word types of the block (spec/00_scope.md rule R5): a byte, and unsigned 16- and 32-bit values. -/

namespace Sys2Proof

/-- A byte, `u8` of rule R5. -/
abbrev Byte := BitVec 8

/-- An unsigned 16-bit value, `u16` of rule R5: command words, the CRC accumulator, one Modbus register. -/
abbrev U16 := BitVec 16

/-- An unsigned 32-bit value, `u32` of rule R5: `RVAL` and a status register. -/
abbrev U32 := BitVec 32

end Sys2Proof
end

