-- ==== Sys2Proof/Machine/Operands.lean ====
section
/-! DEFINITION. Assembling operands from bytes and back (spec/20_memory.md rule R32, spec/30_encoding.md rules R47, R53,
spec/41_frame_decoder.md rule R92). -/

namespace Sys2Proof.Machine

/-- `zext_16` of a byte (rules R6, R47). -/
def zext16 (b : Byte) : U16 := b.setWidth 16

/-- `zext_32` of a 16-bit value (rules R6, R87). -/
def zext32 (v : U16) : U32 := v.setWidth 32

/-- `imm8` as a byte count, unsigned 0 to 255, neither extended nor scaled (rule R47). -/
def byteCount (imm : Byte) : Nat := imm.toNat

/-- Two bytes as a 16-bit value, the first in the high bits (rule R5). -/
def cat16 (hi lo : Byte) : U16 := hi ++ lo

/-- Two 16-bit halves as a 32-bit value, the first in the high bits (rules R5, R88). -/
def cat32 (hi lo : U16) : U32 := hi ++ lo

/-- `c[7:0]` of a 16-bit value. -/
def lowByte (c : U16) : Byte := c.extractLsb' 0 8

/-- `c[15:8]` of a 16-bit value. -/
def highByte (c : U16) : Byte := c.extractLsb' 8 8

/-- The two bytes of a CRC in a frame, low byte first (rule R53). -/
def trailerBytes (c : U16) : List Byte := [lowByte c, highByte c]

/-- The 16-bit value of two trailer bytes in frame order (rule R53). -/
def trailerValue (lo hi : Byte) : U16 := cat16 hi lo

/-- Byte `i` of a frame; it is asked for only where the frame has one. -/
def byteAt (f : List Byte) (i : Nat) : Byte := f.getD i 0

/-- `as_i32` of rule R6: two's complement. -/
def asI32 (v : U32) : Int := if v.toNat < 2 ^ 31 then v.toNat else (v.toNat : Int) - 2 ^ 32

end Sys2Proof.Machine
end

