-- ==== Sys2Proof/Config.lean ====
section
/-! DEFINITION. The parameters of the block that its source leaves open (spec/00_scope.md rule R4), and the free values
(spec/10_state.md rules R13, R24, R28): constants with no body, about which nothing can be proved. -/

namespace Sys2Proof

/-- `FRAME_MAX` of rule R4: any value from 9 to 255. -/
abbrev FrameMax := { n : Nat // 9 ≤ n ∧ n ≤ 255 }

/-- The model arguments of rule R4 that a rule reads. They are fixed for the life of a machine; `State.cfg` carries them
so that every claim is made for every choice of them, and no step changes them (log entry 1). -/
structure Config where
  /-- `FRAME_MAX`, the number of cells of the frame buffer, with its bound. -/
  frameMaxParam : FrameMax
  /-- `PUBLISH_REQUIRES_CRC` (rule R106): an event needs a frame that also passes `verify`. -/
  publishRequiresCrc : Bool
deriving DecidableEq, Repr

/-- `FRAME_MAX` as a number. -/
abbrev Config.frameMax (c : Config) : Nat := c.frameMaxParam.val

/-- The default arguments of rule R4: `FRAME_MAX` = 32 and `PUBLISH_REQUIRES_CRC` = false. -/
def Config.default : Config := ⟨⟨32, by decide⟩, false⟩

/-- FREE VALUE (rules R24, R28): the byte a status read of `FBYTE[i]` gives for `i ≥ FLEN`, "any value", applied to a
counter of the model that every status read advances, so that no two reads are tied to each other (log entry 4). -/
opaque Config.anyByte : Nat → Byte

/-- FREE VALUE (rules R13, R151): the content of cell `i` of `FB` that nothing has written since reset, "unspecified".
No run reaches a state in which a command reads such a cell (log entry 3). -/
opaque Config.unwrittenByte : Nat → Byte

/-- OPEN (rule R4, decision D17): `SENSOR_ID[0..2]`, the identifier strings, looked up outside the block. -/
opaque Config.sensorId : Fin 3 → String

/-- OPEN (rules R4, R143): `WAIT_WINDOW`, a parameter of the host which no rule reads. -/
opaque Config.waitWindow : Nat

/-- OPEN (rules R4, R110): `DELAY_SEND_READ`, a parameter of the host which no rule reads. -/
opaque Config.delaySendRead : Nat

/-- OPEN (rules R4, R110): `DELAY_READ_SEND`, a parameter of the host which no rule reads. -/
opaque Config.delayReadSend : Nat

/-- OPEN (rules R4, R163): the part of `CMD_LATENCY` above its lower bound. -/
opaque Config.cmdLatencyExtra : Nat

/-- `CMD_LATENCY` (rules R4, R163): at least one clock; no rule reads it and the model has no clock. -/
def Config.cmdLatency : Nat := Config.cmdLatencyExtra + 1

end Sys2Proof
end

