-- ==== Sys2Proof/Machine/State.lean ====
section
/-! DEFINITION. The state of the block (spec/10_state.md), of its port to the host (spec/00_scope.md rules R7, R8), the
state after reset (spec/70_reset_and_hazards.md rule R151), and the reasons a step can stop. -/

namespace Sys2Proof.Machine

/-- Which of the two representations a reading has (rules R14, R85). -/
inductive ReadingKind where
  | scaled16
  | int32
deriving DecidableEq, Repr

/-- The values of `RKIND` (rule R14). The code 3 is never produced and has no constructor. -/
inductive Rkind where
  | none
  | scaled16
  | int32
deriving DecidableEq, Repr

/-- The values of `DERR` (rule R16). -/
inductive Derr where
  | ok
  | unsupportedFunction
  | unrecognizedPayloadLength
  | frameTooShort
deriving DecidableEq, Repr

/-- The values of `PST` (rule R19). -/
inductive Pst where
  | idle
  | awaitingResponse
deriving DecidableEq, Repr

/-- The values of `PLAST` (rule R20). -/
inductive Plast where
  | none
  | validated
  | invalid
  | timeout
deriving DecidableEq, Repr

/-- The values of `FCAUSE` (rules R22, R135). The codes 5 to 7 are never produced and have no constructor. -/
inductive Fcause where
  | none
  | illegalCmd
  | bufOverflow
  | range
  | sequence
deriving DecidableEq, Repr

/-- The cells of the frame buffer that hold a byte some command wrote since reset, as (address, byte), addresses strictly
rising (`Memory.wf`). An unlisted cell has no value of its own (rule R13); what it reads as is a free value, safe (log
entry 3). -/
abbrev Memory := List Host.Cell

/-- The state of the block: exactly the elements of rule R10, under the spec's names. -/
structure Block where
  /-- `ACC` (R11), the CRC accumulator. -/
  acc : U16
  /-- `VOK` (R12), the result of the last `verify`. -/
  vok : Bool
  /-- `FB` (R13), the frame buffer. -/
  fb : Memory
  /-- `FLEN` (R13), the number of valid bytes of `FB`. DEDUCED, safe: a count, not a word, since no reachable state has it
  above `FRAME_MAX`, at most 255, so it never leaves its 8 bits (log entry 7). -/
  flen : Nat
  /-- `RKIND` (R14), the kind of the last reading. -/
  rkind : Rkind
  /-- `RVAL` (R15), the raw value of the last reading. -/
  rval : U32
  /-- `DERR` (R16), the error of the last decode. -/
  derr : Derr
  /-- `IDX` (R18), the round-robin index. The value 3 is never produced and does not exist here. -/
  idx : Fin 3
  /-- `PST` (R19), the state of the poll cycle. -/
  pst : Pst
  /-- `PLAST` (R20), how the last cycle ended. -/
  plast : Plast
  /-- `FAULT` (R22), the sticky fault flag. -/
  fault : Bool
  /-- `FCAUSE` (R22), the cause of the first fault. -/
  fcause : Fcause
deriving DecidableEq, Repr

/-- A SensorReadingEvent of the trace `EVT` (rules R8, R57): its kind is never `NONE`. -/
structure Event where
  idx : Fin 3
  kind : ReadingKind
  val : U32
deriving DecidableEq, Repr

/-- What the host can do at the block's port (rules R7, R24, R150): present a command word, read a status register by its
number, or pulse `rst`. -/
inductive HostAct where
  | command (w : U16)
  | readStatus (n : Nat)
  | reset
deriving DecidableEq, Repr

/-- The machine: the block, its parameters, and its port to the host. The block's own state is `blk` alone; the other
fields are the model's, so that one step is a function of one plain state (log entries 1, 2, 4, 5). DESIGN CHOICE, each
safe or unsafe as its entry says. -/
structure State where
  /-- The model arguments of rule R4. No step changes them. -/
  cfg : Config
  /-- The state of the block (rule R10). -/
  blk : Block
  /-- The transmit trace `TX` (rule R8): the request frames `PREQ` emitted, oldest first. -/
  tx : List (List Byte)
  /-- The event trace `EVT` (rule R8): the events `PRSP` emitted, oldest first. -/
  evt : List Event
  /-- The values the status port gave (rule R24), oldest first. -/
  rd : List U32
  /-- What the host does next, in order (rules R26, R39): the step takes the first. -/
  pending : List HostAct
  /-- A counter of the model, the argument of the free value `Config.anyByte`; every status read advances it. -/
  freeCtr : Nat
deriving DecidableEq, Repr

/-- Rule R151: every element of the block at its reset value; `FB` is unspecified, so no cell of it is listed. -/
def Block.reset : Block where
  acc := 0xFFFF
  vok := false
  fb := []
  flen := 0
  rkind := .none
  rval := 0
  derr := .ok
  idx := 0
  pst := .idle
  plast := .none
  fault := false
  fcause := .none

/-- The machine right after reset (rules R150, R151), with the default arguments of rule R4, empty traces, and a host that
has not yet done anything. -/
def State.reset : State where
  cfg := Config.default
  blk := Block.reset
  tx := []
  evt := []
  rd := []
  pending := []
  freeCtr := 0

/-- The reasons a step stops with a fault: there are none. A fault of this hardware is a state it goes on from
(`FAULT` and `FCAUSE`, rules R136, R138), "there is no terminal state and no command that halts the block" (R114), and
every byte sequence and every word has a defined result (R55). DEDUCED, safe (log entry 12). -/
inductive Fault where
deriving DecidableEq, Repr

/-- The reasons a step is refused. -/
inductive Refusal where
  /-- Raised by an arm of `exec` whose instruction has no meaning yet, and by nothing else. Safe. No arm raises it now. -/
  | notModelled (mnemonic : String)
deriving DecidableEq, Repr

end Sys2Proof.Machine
end

