-- ==== Sys2Proof/Machine/Ops.lean ====
section
/-! DEFINITION. The operations the meanings share: the frame buffer byte by byte, the frame, taking a fault and leaving
it, and the outputs. -/

namespace Sys2Proof.Machine

/-- What a step answers. -/
abbrev Out := Host.Outcome State Fault Refusal

/-! ### The frame buffer -/

/-- The byte a cell holds, if some command wrote it since reset. -/
def Memory.lookup : Memory → Nat → Option Byte
  | [], _ => none
  | (x, v) :: m, a => if x = a then some v else Memory.lookup m a

/-- What a cell that nothing has written since reset reads as: unspecified (rules R13, R151), a free value. -/
def Memory.unlisted (a : Nat) : Byte := Config.unwrittenByte a

/-- `MemRead(FB, a, 1)` (rule R6). -/
def Memory.read (m : Memory) (a : Nat) : Byte := (Memory.lookup m a).getD (Memory.unlisted a)

/-- `MemWrite(FB, a, 1, b)` (rule R6); it keeps the addresses strictly rising. -/
def Memory.write : Memory → Nat → Byte → Memory
  | [], a, b => [(a, b)]
  | (x, v) :: m, a, b =>
    if a < x then (a, b) :: (x, v) :: m
    else if a = x then (a, b) :: m
    else (x, v) :: Memory.write m a b

/-- Every address of `m` is above `lo`, and they rise strictly. -/
def Memory.risingFrom : Nat → Memory → Bool
  | _, [] => true
  | lo, (x, _) :: m => decide (lo < x) && Memory.risingFrom x m

/-- The canonical form: the addresses rise strictly. -/
def Memory.wf : Memory → Bool
  | [] => true
  | (x, _) :: m => Memory.risingFrom x m

/-- The `n` bytes from address `a` on, in rising order. -/
def Memory.bytes (m : Memory) : Nat → Nat → List Byte
  | _, 0 => []
  | a, n + 1 => Memory.read m a :: Memory.bytes m (a + 1) n

/-- `FB[0 .. n)`. -/
def State.frameTake (s : State) (n : Nat) : List Byte := Memory.bytes s.blk.fb 0 n

/-- The frame, `FB[0 .. FLEN)` (rule R13). -/
def State.frame (s : State) : List Byte := s.frameTake s.blk.flen

/-- The store of `FPUSH` and `CAPP`: append at `FLEN`, then increment `FLEN` (rule R122). -/
def State.append (s : State) (b : Byte) : State :=
  { s with blk.fb := Memory.write s.blk.fb s.blk.flen b, blk.flen := s.blk.flen + 1 }

/-! ### Faults -/

/-- `raise Fault(c)` (rules R6, R136): with `FAULT` clear it sets `FAULT` and `FCAUSE` and nothing else; no fault is
recorded over an earlier one (rules R138, R141). -/
def State.raise (s : State) (c : Fcause) : State :=
  if s.blk.fault then s else { s with blk.fault := true, blk.fcause := c }

/-- The only way out of a fault (rules R141, R150): `rst` puts every element of the block at its reset value, and the
traces start empty. What the host does next, the parameters and the model's counter are not the block's. DESIGN CHOICE,
unsafe where a claim is about `rd` across a reset: the record of status reads starts empty too (log entry 11). -/
def State.pulseReset (s : State) : State :=
  { s with blk := Block.reset, tx := [], evt := [], rd := [] }

/-- A command of a faulted block completes with no change to any state and no output (rule R138). -/
def whenRunning (s : State) (k : State → State) : Out :=
  if s.blk.fault then .next s else .next (k s)

/-! ### Outputs -/

/-- `emit TX(f)` (rule R6). -/
def State.emitTx (s : State) (f : List Byte) : State := { s with tx := s.tx ++ [f] }

/-- `emit EVT(idx, kind, val)` (rule R6) for each event of a list. -/
def State.emitEvts (s : State) (es : List Event) : State := { s with evt := s.evt ++ es }

end Sys2Proof.Machine
end

