-- ==== Sys2Proof/Machine/CrcEngine.lean ====
section
/-! DEFINITION. Unit C, the CRC Engine (spec/40_crc_engine.md): its functions, and the meanings of `CINIT`, `CUPD`, `CGEN`,
`CAPP` and `CVFY`. -/

namespace Sys2Proof.Machine

/-- `CRC_INIT` (rule R4). -/
def crcInit : U16 := 0xFFFF

/-- `CRC_POLY` (rule R4). -/
def crcPoly : U16 := 0xA001

/-- `VERIFY_MIN` (rule R4). -/
def verifyMin : Nat := 5

/-- One bit step (rule R65): a logical shift right, then the polynomial if the bit shifted out was 1. -/
def crcBit (a : U16) : U16 := if a.getLsbD 0 then (a >>> 1) ^^^ crcPoly else a >>> 1

/-- `n` bit steps. -/
def crcBits : Nat → U16 → U16
  | 0, a => a
  | n + 1, a => crcBits n (crcBit a)

/-- One byte step (rule R66): the byte is folded in whole, then 8 bit steps. -/
def crcByte (a : U16) (b : Byte) : U16 := crcBits 8 (a ^^^ zext16 b)

/-- The loop of rule R67 from any accumulator. -/
def crcFold (a : U16) (bs : List Byte) : U16 := bs.foldl crcByte a

/-- The checksum (rule R67). -/
def crc16 (bs : List Byte) : U16 := crcFold crcInit bs

/-- The generator, `seal` (rule R68). -/
def sealFrame (bs : List Byte) : List Byte := bs ++ trailerBytes (crc16 bs)

/-- The validator (rule R69). -/
def verify (f : List Byte) : Bool :=
  if f.length < verifyMin then false
  else crc16 (f.take (f.length - 2)) == cat16 (byteAt f (f.length - 1)) (byteAt f (f.length - 2))

/-- `frame_with_recomputed_trailer` (rule R77), for frames of at least 2 bytes; it is also `RESEAL` of rule R59. -/
def recomputeTrailer (f : List Byte) : List Byte := sealFrame (f.take (f.length - 2))

/-- The writes of `CVFY` (rule R74), which `PRSP` makes too (rule R104 step 3). -/
def State.writeVerify (s : State) : State :=
  if s.blk.flen < verifyMin then { s with blk.vok := false }
  else
    let c := crc16 (s.frameTake (s.blk.flen - 2))
    let t := cat16 (Memory.read s.blk.fb (s.blk.flen - 1)) (Memory.read s.blk.fb (s.blk.flen - 2))
    { s with blk.acc := c, blk.vok := c == t }

/-- `CINIT` (rule R70). -/
def execCinit (s : State) : Out := whenRunning s fun s => { s with blk.acc := crcInit }

/-- `CUPD b` (rule R71). -/
def execCupd (b : Byte) (s : State) : Out := whenRunning s fun s => { s with blk.acc := crcByte s.blk.acc b }

/-- `CGEN n` (rule R72). -/
def execCgen (n : Byte) (s : State) : Out :=
  whenRunning s fun s =>
    if s.blk.flen < byteCount n then s.raise .range
    else { s with blk.acc := crc16 (s.frameTake (byteCount n)) }

/-- `CAPP` (rule R73). -/
def execCapp (s : State) : Out :=
  whenRunning s fun s =>
    if s.cfg.frameMax < s.blk.flen + 2 then s.raise .bufOverflow
    else
      let c := crc16 s.frame
      { (s.append (lowByte c)).append (highByte c) with blk.acc := c }

/-- `CVFY` (rule R74). -/
def execCvfy (s : State) : Out := whenRunning s State.writeVerify

end Sys2Proof.Machine
end

