-- ==== Sys2Proof/Machine/FrameBuffer.lean ====
section
/-! DEFINITION. Unit F, the frame buffer commands (spec/43_buffer_commands.md): the meanings of `FCLR` and `FPUSH`. -/

namespace Sys2Proof.Machine

/-- `FCLR` (rule R120): the bytes stay and become stale. -/
def execFclr (s : State) : Out := whenRunning s fun s => { s with blk.flen := 0 }

/-- `FPUSH b` (rule R121). -/
def execFpush (b : Byte) (s : State) : Out :=
  whenRunning s fun s => if s.blk.flen = s.cfg.frameMax then s.raise .bufOverflow else s.append b

end Sys2Proof.Machine
end

