-- ==== Sys2Proof/Syntax.lean ====
section
/-! DEFINITION. The instructions: one constructor for each row of spec/opcode_table.json, the eleven command words of
spec/30_encoding.md rule R46 and the two response-frame forms of rule R51. -/

namespace Sys2Proof

/-- One row of the opcode table each. Commands carry the `imm8` operand where the row has one (rule R47). A frame form
carries the whole frame it stands for: its device address, its data bytes, and every byte after them (rules R50, R51). -/
inductive Instr where
  /-- Empty the frame buffer (R120). -/
  | fclr
  /-- Append one byte to the frame (R121). -/
  | fpush (b : Byte)
  /-- Set the accumulator to its initial value (R70). -/
  | cinit
  /-- Fold one byte into the accumulator (R71). -/
  | cupd (b : Byte)
  /-- CRC of the first `n` frame bytes (R72). -/
  | cgen (n : Byte)
  /-- Append the CRC trailer of the frame (R73). -/
  | capp
  /-- Verify the frame (R74). -/
  | cvfy
  /-- Decode the frame (R86). -/
  | fdec
  /-- Send the request for the current sensor (R102). -/
  | preq
  /-- Process the response in the frame buffer (R104). -/
  | prsp
  /-- The wait window ended with no data (R103). -/
  | ptmo
  /-- Response form, byte-count 2: one register, scaled (R87). `rest` is what follows byte 4, the trailer included. -/
  | rd16 (addr d0 d1 : Byte) (rest : List Byte)
  /-- Response form, byte-count 4: a register pair, combined (R88). `rest` is what follows byte 6. -/
  | rd32 (addr d0 d1 d2 d3 : Byte) (rest : List Byte)
deriving DecidableEq, Repr

/-- The mnemonic of an instruction, as spec/opcode_table.json spells it. -/
def Instr.mnemonic : Instr → String
  | .fclr => "FCLR"
  | .fpush _ => "FPUSH"
  | .cinit => "CINIT"
  | .cupd _ => "CUPD"
  | .cgen _ => "CGEN"
  | .capp => "CAPP"
  | .cvfy => "CVFY"
  | .fdec => "FDEC"
  | .preq => "PREQ"
  | .prsp => "PRSP"
  | .ptmo => "PTMO"
  | .rd16 _ _ _ _ => "RD16"
  | .rd32 _ _ _ _ _ _ => "RD32"

end Sys2Proof
end

