-- ==== Sys2Proof/WellFormed.lean ====
section
/-! DEFINITION. The checks on an instruction that its type does not make. -/

namespace Sys2Proof

/-- A command word is well formed whatever its operand (`CGEN n` with `n > FLEN` is a fault of the machine, rule R72, not
an ill-formed word). A frame form is well formed when its frame fits the frame buffer: at most `FRAME_MAX` bytes
(rules R13, R55). -/
def Instr.wf (cfg : Config) : Instr → Bool
  | .fclr => true
  | .fpush _ => true
  | .cinit => true
  | .cupd _ => true
  | .cgen _ => true
  | .capp => true
  | .cvfy => true
  | .fdec => true
  | .preq => true
  | .prsp => true
  | .ptmo => true
  | .rd16 _ _ _ rest => decide (5 + rest.length ≤ cfg.frameMax)
  | .rd32 _ _ _ _ _ rest => decide (7 + rest.length ≤ cfg.frameMax)

end Sys2Proof
end

