-- ==== Sys2Proof/Decode.lean ====
section
/-! DEFINITION. Decoding and encoding (spec/30_encoding.md): command words, 16 bits each, and response frames, byte
sequences. Both decoders are total and reject by name. -/

namespace Sys2Proof

/-- Why a command word is illegal (rule R48). All three raise `Fault(ILLEGAL_CMD)`. -/
inductive IllegalWord where
  /-- `op` is `0x0` or `0xC` to `0xF`. -/
  | reservedOp
  /-- `rsv` is not `0000`. -/
  | reservedBits
  /-- `imm8` is not `0x00` on a command without an operand. -/
  | unusedOperand
deriving DecidableEq, Repr

/-- Why a frame is not one of the two forms (rules R54, R132). -/
inductive FrameError where
  | unsupportedFunction
  | unrecognizedPayloadLength
  | frameTooShort
deriving DecidableEq, Repr

/-- What the block decodes (rule R45): a command word, moved whole (R32 (e)), or a frame, byte 0 first. -/
inductive Code where
  | word (w : U16)
  | frame (f : List Byte)
deriving DecidableEq, Repr

/-- The name under which a code is rejected. -/
inductive Reject where
  | word (e : IllegalWord)
  | frame (e : FrameError)
deriving DecidableEq, Repr

/-- `op` is `w[15:12]` (rule R45). -/
def opField (w : U16) : BitVec 4 := w.extractLsb' 12 4

/-- `rsv` is `w[11:8]` (rule R45). -/
def rsvField (w : U16) : BitVec 4 := w.extractLsb' 8 4

/-- `imm8` is `w[7:0]` (rule R45). -/
def immField (w : U16) : Byte := w.extractLsb' 0 8

/-- A command without an operand needs `imm8 = 0x00` (rule R48). -/
def noOperand (imm : Byte) (i : Instr) : Except IllegalWord Instr :=
  if imm = 0 then .ok i else .error .unusedOperand

/-- The operation codes of rule R46. -/
def decodeOp (op : Nat) (imm : Byte) : Except IllegalWord Instr :=
  match op with
  | 0x1 => noOperand imm .fclr
  | 0x2 => .ok (.fpush imm)
  | 0x3 => noOperand imm .cinit
  | 0x4 => .ok (.cupd imm)
  | 0x5 => .ok (.cgen imm)
  | 0x6 => noOperand imm .capp
  | 0x7 => noOperand imm .cvfy
  | 0x8 => noOperand imm .fdec
  | 0x9 => noOperand imm .preq
  | 0xA => noOperand imm .prsp
  | 0xB => noOperand imm .ptmo
  | _ => .error .reservedOp

/-- The command word decoder (rules R45 to R48): any reserved encoding is rejected, none falls through to a neighbour. -/
def decodeWord (w : U16) : Except IllegalWord Instr :=
  if rsvField w = 0 then decodeOp (opField w).toNat (immField w) else .error .reservedBits

/-- `FUNC_READ` (rule R4). -/
def funcRead : Byte := 0x03

/-- `BC16` (rule R4). -/
def bc16 : Byte := 0x02

/-- `BC32` (rule R4). -/
def bc32 : Byte := 0x04

/-- The data of a frame whose function code and byte-count are recognised (rule R51). -/
def decodeData (addr bc : Byte) (data : List Byte) : Except FrameError Instr :=
  if bc = bc16 then
    match data with
    | d0 :: d1 :: rest => .ok (.rd16 addr d0 d1 rest)
    | _ => .error .frameTooShort
  else if bc = bc32 then
    match data with
    | d0 :: d1 :: d2 :: d3 :: rest => .ok (.rd32 addr d0 d1 d2 d3 rest)
    | _ => .error .frameTooShort
  else .error .unrecognizedPayloadLength

/-- The frame decoder as a decoder of forms: it selects on bytes 1 and 2 of the frame (rule R51), in the order of checks
of rule R89. What a recognised form means is the machine's (`Machine/FrameDecoder.lean`). -/
def decodeFrame (f : List Byte) : Except FrameError Instr :=
  match f with
  | addr :: fn :: tail =>
    if fn = funcRead then
      match tail with
      | bc :: data => decodeData addr bc data
      | [] => .error .frameTooShort
    else .error .unsupportedFunction
  | _ => .error .unsupportedFunction

/-- The decoder: total on every command word and on every sequence of bytes. -/
def decode (c : Code) : Except Reject Instr :=
  match c with
  | .word w => (decodeWord w).mapError .word
  | .frame f => (decodeFrame f).mapError .frame

/-- A command word from its fields, `rsv` zero (rule R45). -/
def cmdWord (op : BitVec 4) (imm : Byte) : U16 := op ++ 0#4 ++ imm

/-- The encoder: the word or the frame of an instruction, from the tables of rules R46 and R51. -/
def encode : Instr → Code
  | .fclr => .word (cmdWord 0x1 0)
  | .fpush b => .word (cmdWord 0x2 b)
  | .cinit => .word (cmdWord 0x3 0)
  | .cupd b => .word (cmdWord 0x4 b)
  | .cgen n => .word (cmdWord 0x5 n)
  | .capp => .word (cmdWord 0x6 0)
  | .cvfy => .word (cmdWord 0x7 0)
  | .fdec => .word (cmdWord 0x8 0)
  | .preq => .word (cmdWord 0x9 0)
  | .prsp => .word (cmdWord 0xA 0)
  | .ptmo => .word (cmdWord 0xB 0)
  | .rd16 addr d0 d1 rest => .frame (addr :: funcRead :: bc16 :: d0 :: d1 :: rest)
  | .rd32 addr d0 d1 d2 d3 rest => .frame (addr :: funcRead :: bc32 :: d0 :: d1 :: d2 :: d3 :: rest)

/-- The frame of a 24-bit number of spec/opcode_table.json: rows RD16 and RD32 number the first three frame bytes as
`{f[0], f[1], f[2]}`, so byte 2 is bits 7 to 0 (log entry 8). Every later byte, up to the seven that the longest form
needs, is 0. -/
def tableFrame (w : Nat) : List Byte :=
  [BitVec.ofNat 8 (w / 65536), BitVec.ofNat 8 (w / 256), BitVec.ofNat 8 w, 0, 0, 0, 0]

/-- The instruction the decoder reads from a row's bits: 16 bits are a command word, 24 bits are the head of a frame. -/
def decodeTableWord (nbits w : Nat) : Option Instr :=
  if nbits = 16 then (decodeWord (BitVec.ofNat 16 w)).toOption
  else if nbits = 24 then (decodeFrame (tableFrame w)).toOption
  else none

/-- A row of the opcode table: how many bits its number has, which of them are fixed, and their values. -/
structure Row where
  width : Nat
  mask : Nat
  value : Nat
deriving DecidableEq, Repr

/-- The rows of spec/opcode_table.json, by instruction. -/
def Instr.row : Instr → Row
  | .fclr => ⟨16, 0xFFFF, 0x1000⟩
  | .fpush _ => ⟨16, 0xFF00, 0x2000⟩
  | .cinit => ⟨16, 0xFFFF, 0x3000⟩
  | .cupd _ => ⟨16, 0xFF00, 0x4000⟩
  | .cgen _ => ⟨16, 0xFF00, 0x5000⟩
  | .capp => ⟨16, 0xFFFF, 0x6000⟩
  | .cvfy => ⟨16, 0xFFFF, 0x7000⟩
  | .fdec => ⟨16, 0xFFFF, 0x8000⟩
  | .preq => ⟨16, 0xFFFF, 0x9000⟩
  | .prsp => ⟨16, 0xFFFF, 0xA000⟩
  | .ptmo => ⟨16, 0xFFFF, 0xB000⟩
  | .rd16 _ _ _ _ => ⟨24, 0x00FFFF, 0x000302⟩
  | .rd32 _ _ _ _ _ _ => ⟨24, 0x00FFFF, 0x000304⟩

/-- A code as the number the opcode table gives its bits: a word as it stands, a frame by its first three bytes. -/
def Code.tableNumber : Code → Nat
  | .word w => w.toNat
  | .frame f => (f.getD 0 0).toNat * 65536 + (f.getD 1 0).toNat * 256 + (f.getD 2 0).toNat

end Sys2Proof
end

