-- ==== Sys2Proof/Machine/FrameDecoder.lean ====
section
/-! DEFINITION. Unit D, the Frame Decoder (spec/41_frame_decoder.md): the function `decode` of rule R85, the meaning of
`FDEC`, and the meanings of the frame forms `RD16` and `RD32`. -/

namespace Sys2Proof.Machine

/-- A DecodedReading (rules R14, R15, R85). -/
abbrev Reading := ReadingKind × U32

/-- The minimum length of form `RD16` (rule R51). -/
def minLen16 : Nat := 5

/-- The minimum length of form `RD32` (rule R51). -/
def minLen32 : Nat := 7

/-- The pure function `decode` of rule R85, check by check in its order. -/
def decodeReading (f : List Byte) : Except FrameError Reading :=
  let n := f.length
  if n < 2 then .error .unsupportedFunction
  else if byteAt f 1 ≠ funcRead then .error .unsupportedFunction
  else if n < 3 then .error .frameTooShort
  else if byteAt f 2 = bc16 then
    if n < minLen16 then .error .frameTooShort
    else .ok (.scaled16, zext32 (cat16 (byteAt f 3) (byteAt f 4)))
  else if byteAt f 2 = bc32 then
    if n < minLen32 then .error .frameTooShort
    else .ok (.int32, cat32 (cat16 (byteAt f 3) (byteAt f 4)) (cat16 (byteAt f 5) (byteAt f 6)))
  else .error .unrecognizedPayloadLength

/-- `RKIND` of a reading (rule R14). -/
def ReadingKind.rkind : ReadingKind → Rkind
  | .scaled16 => .scaled16
  | .int32 => .int32

/-- `DERR` of a decode error (rules R16, R132). -/
def derrOf : FrameError → Derr
  | .unsupportedFunction => .unsupportedFunction
  | .unrecognizedPayloadLength => .unrecognizedPayloadLength
  | .frameTooShort => .frameTooShort

/-- The writes of a reading to the decoder registers (rule R86). -/
def State.writeReading (s : State) (kind : ReadingKind) (val : U32) : State :=
  { s with blk.rkind := kind.rkind, blk.rval := val, blk.derr := .ok }

/-- The writes of a decode error to the decoder registers (rule R86). -/
def State.writeError (s : State) (e : FrameError) : State :=
  { s with blk.rkind := .none, blk.rval := 0, blk.derr := derrOf e }

/-- The writes of `FDEC` for a result of `decode` (rule R86), which `PRSP` makes too (rule R104 step 1). -/
def State.writeDecode (s : State) (r : Except FrameError Reading) : State :=
  match r with
  | .ok (kind, val) => s.writeReading kind val
  | .error e => s.writeError e

/-- `FDEC` (rule R86). -/
def execFdec (s : State) : Out := whenRunning s fun s => s.writeDecode (decodeReading s.frame)

/-- Form `RD16` (rule R87): what the decoder writes for a frame of this form (DESIGN CHOICE, safe: log entry 9). The
address and the bytes after byte 4 are not examined (rule R90). -/
def execRd16 (_addr d0 d1 : Byte) (_rest : List Byte) (s : State) : Out :=
  whenRunning s fun s => s.writeReading .scaled16 (zext32 (cat16 d0 d1))

/-- Form `RD32` (rule R88): what the decoder writes for a frame of this form (DESIGN CHOICE, safe: log entry 9). The
address and the bytes after byte 6 are not examined (rule R90). -/
def execRd32 (_addr d0 d1 d2 d3 : Byte) (_rest : List Byte) (s : State) : Out :=
  whenRunning s fun s => s.writeReading .int32 (cat32 (cat16 d0 d1) (cat16 d2 d3))

end Sys2Proof.Machine
end

