-- ==== Sys2Proof/Machine/PollSequencer.lean ====
section
/-! DEFINITION. Unit P, the Poll Sequencer (spec/42_poll_sequencer.md): the request table, and the meanings of `PREQ`, `PTMO`
and `PRSP`. -/

namespace Sys2Proof.Machine

/-- The constant table `REQ` (rules R21, R52): light, temperature, humidity. -/
def reqTable (k : Fin 3) : List Byte :=
  match k with
  | 0 => [0x01, 0x03, 0x00, 0x07, 0x00, 0x02, 0x75, 0xCA]
  | 1 => [0x01, 0x03, 0x00, 0x01, 0x00, 0x01, 0xD5, 0xCA]
  | 2 => [0x01, 0x03, 0x00, 0x00, 0x00, 0x01, 0x84, 0x0A]

/-- `(IDX + 1) mod 3` (rule R105). -/
def nextIdx (k : Fin 3) : Fin 3 := k + 1

/-- A cycle that ended without data (rules R103, R108). -/
def State.endTimeout (s : State) : State := { s with blk.plast := .timeout, blk.pst := .idle }

/-- The events a cycle hands to the Reading Publisher (rule R104 step 2, rule R106), at most one: `idx` is the index polled,
`r` and `v` the results of `decode` and `verify` on the response. -/
def published (cfg : Config) (idx : Fin 3) (r : Except FrameError Reading) (v : Bool) : List Event :=
  match r with
  | .ok (kind, val) => if !cfg.publishRequiresCrc || v then [⟨idx, kind, val⟩] else []
  | .error _ => []

/-- Hand-off to the Reading Publisher (rule R104 step 2). -/
def State.publish (s : State) (r : Except FrameError Reading) (v : Bool) : State :=
  s.emitEvts (published s.cfg s.blk.idx r v)

/-- Advance or retry (rule R104 step 4). -/
def State.endCycle (s : State) (v : Bool) : State :=
  if v then { s with blk.idx := nextIdx s.blk.idx, blk.plast := .validated, blk.pst := .idle }
  else { s with blk.plast := .invalid, blk.pst := .idle }

/-- The cycle of a response that is not empty: decode, publish, verify, advance (rule R104 steps 1 to 4). -/
def State.processResponse (s : State) : State :=
  let r := decodeReading s.frame
  let v := verify s.frame
  (((s.writeDecode r).publish r v).writeVerify).endCycle v

/-- `PREQ` (rule R102). -/
def execPreq (s : State) : Out :=
  whenRunning s fun s =>
    if s.blk.pst ≠ .idle then s.raise .sequence
    else { s.emitTx (reqTable s.blk.idx) with blk.pst := .awaitingResponse }

/-- `PTMO` (rule R103). -/
def execPtmo (s : State) : Out :=
  whenRunning s fun s => if s.blk.pst ≠ .awaitingResponse then s.raise .sequence else s.endTimeout

/-- `PRSP` (rule R104). -/
def execPrsp (s : State) : Out :=
  whenRunning s fun s =>
    if s.blk.pst ≠ .awaitingResponse then s.raise .sequence
    else if s.blk.flen = 0 then s.endTimeout
    else s.processResponse

end Sys2Proof.Machine
end

