-- ==== Sys2Proof/Machine/Dispatch.lean ====
section
/-! DEFINITION. The dispatch: one arm for each constructor of `Instr`. -/

namespace Sys2Proof.Machine

def exec (i : Instr) (s : State) : Host.Outcome State Fault Refusal :=
  match i with
  -- unit F, spec/43_buffer_commands.md
  | .fclr => Sys2Proof.Machine.execFclr s
  | .fpush b => Sys2Proof.Machine.execFpush b s
  -- unit C, spec/40_crc_engine.md
  | .cinit => Sys2Proof.Machine.execCinit s
  | .cupd b => Sys2Proof.Machine.execCupd b s
  | .cgen n => Sys2Proof.Machine.execCgen n s
  | .capp => Sys2Proof.Machine.execCapp s
  | .cvfy => Sys2Proof.Machine.execCvfy s
  -- unit D, spec/41_frame_decoder.md
  | .fdec => Sys2Proof.Machine.execFdec s
  -- unit P, spec/42_poll_sequencer.md
  | .preq => Sys2Proof.Machine.execPreq s
  | .prsp => Sys2Proof.Machine.execPrsp s
  | .ptmo => Sys2Proof.Machine.execPtmo s
  -- the frame forms of unit D
  | .rd16 addr d0 d1 rest => Sys2Proof.Machine.execRd16 addr d0 d1 rest s
  | .rd32 addr d0 d1 d2 d3 rest => Sys2Proof.Machine.execRd32 addr d0 d1 d2 d3 rest s

end Sys2Proof.Machine
end

