-- ==== Sys2Proof/Machine/Flags.lean ====
section
/-! DEFINITION. The codes of the status fields and the status registers (spec/10_state.md rule R24). -/

namespace Sys2Proof.Machine

/-- A one-bit field. -/
def bitOf (b : Bool) : BitVec 1 := if b then 1 else 0

/-- The codes of `RKIND` (rules R10, R14). -/
def Rkind.bits : Rkind → BitVec 2
  | .none => 0
  | .scaled16 => 1
  | .int32 => 2

/-- The codes of `DERR` (rules R10, R16). -/
def Derr.bits : Derr → BitVec 2
  | .ok => 0
  | .unsupportedFunction => 1
  | .unrecognizedPayloadLength => 2
  | .frameTooShort => 3

/-- `IDX` as its 2 bits (rule R18). -/
def idxBits (k : Fin 3) : BitVec 2 := BitVec.ofNat 2 k.val

/-- The codes of `PST` (rules R10, R19). -/
def Pst.bits : Pst → BitVec 1
  | .idle => 0
  | .awaitingResponse => 1

/-- The codes of `PLAST` (rules R10, R20). -/
def Plast.bits : Plast → BitVec 2
  | .none => 0
  | .validated => 1
  | .invalid => 2
  | .timeout => 3

/-- The codes of `FCAUSE` (rules R22, R135). -/
def Fcause.bits : Fcause → BitVec 3
  | .none => 0
  | .illegalCmd => 1
  | .bufOverflow => 2
  | .range => 3
  | .sequence => 4

/-- A field of a status register, its lowest bit at `lo`. -/
def fieldAt {n : Nat} (v : BitVec n) (lo : Nat) : U32 := v.setWidth 32 <<< lo

/-- Status register 0, `STATUS` (rule R24), field by field. -/
def statusWord (b : Block) : U32 :=
  fieldAt (bitOf b.vok) 0 ||| fieldAt b.rkind.bits 1 ||| fieldAt b.derr.bits 3 ||| fieldAt (idxBits b.idx) 5
    ||| fieldAt b.pst.bits 7 ||| fieldAt b.plast.bits 8 ||| fieldAt (bitOf b.fault) 10 ||| fieldAt b.fcause.bits 11

/-- The value of status register `n` (rule R24). DESIGN CHOICE, unsafe on a part with only seven select lines: every number
of the rule can be selected (log entry 6). `any` is the value a read of `FBYTE[i]` gives for `i ≥ FLEN`, and no
other register depends on it. -/
def statusRegister (s : State) (any : Byte) (n : Nat) : U32 :=
  if n = 0 then statusWord s.blk
  else if n = 1 then s.blk.acc.setWidth 32
  else if n = 2 then s.blk.rval
  else if n = 3 then (BitVec.ofNat 8 s.blk.flen).setWidth 32
  else if 64 ≤ n ∧ n < 64 + s.cfg.frameMax then
    (if n - 64 < s.blk.flen then Memory.read s.blk.fb (n - 64) else any).setWidth 32
  else 0

end Sys2Proof.Machine
end

