-- ==== Sys2Proof/Machine/HostPort.lean ====
section
/-! DEFINITION. The block's port to the host (spec/00_scope.md rules R7, R8): a command word, a status read, a pulse of
`rst`, and the two outputs as they stand on their wires (spec/30_encoding.md rule R57). -/

namespace Sys2Proof.Machine

/-- One command word (rules R7, R48): an illegal word raises `ILLEGAL_CMD`, the check that comes before any other
(rule R137). -/
def runWord (w : U16) (s : State) : Out :=
  match decodeWord w with
  | .ok i => exec i s
  | .error _ => .next (s.raise .illegalCmd)

/-- One read of the status port (rules R24, R35): the value of the register, with no effect on the block. -/
def runRead (n : Nat) (s : State) : Out :=
  .next { s with rd := s.rd ++ [statusRegister s (Config.anyByte s.freeCtr) n], freeCtr := s.freeCtr + 1 }

/-- What the host does, carried out. -/
def runAct (a : HostAct) (s : State) : Out :=
  match a with
  | .command w => runWord w s
  | .readStatus n => runRead n s
  | .reset => .next s.pulseReset

/-- A frame placed in the frame buffer from address 0 on, as `FCLR` and `FPUSH` would leave it in an empty buffer. -/
def State.loadFrame (s : State) (f : List Byte) : State :=
  f.foldl State.append { s with blk.fb := [], blk.flen := 0 }

/-- The word by which the host has the frame in the buffer decoded: `FDEC` (rule R46). -/
def fdecWord : U16 := 0x8000

/-- A row's bits placed so that the next step runs them: a command word is what the host does next; the head of a frame
is the frame in the buffer, and the host's next command has it decoded (log entry 9). -/
def State.placeTableWord (s : State) (nbits w : Nat) : State :=
  if nbits = 24 then
    { s.loadFrame (tableFrame w) with pending := .command fdecWord :: s.pending }
  else { s with pending := .command (BitVec.ofNat 16 w) :: s.pending }

/-- `tx_data[63:0]` (rule R57): frame byte `k` is `tx_data[63 - 8k : 56 - 8k]`. -/
def txData (f : List Byte) : BitVec 64 :=
  f.foldl (fun acc b => (acc <<< 8) ||| b.setWidth 64) 0

/-- `evt_kind[1:0]` (rule R57): 1 or 2. -/
def evtKind : ReadingKind → BitVec 2
  | .scaled16 => 1
  | .int32 => 2

/-- The event output (rule R57): `evt_idx[1:0]`, `evt_kind[1:0]`, `evt_val[31:0]`. -/
def evtPort (e : Event) : BitVec 2 × BitVec 2 × U32 := (idxBits e.idx, evtKind e.kind, e.val)

end Sys2Proof.Machine
end

