-- ==== Sys2Proof/Machine/Step.lean ====
section
/-! DEFINITION. One step of the machine (spec/00_scope.md rule R7, spec/20_memory.md rule R39). -/

namespace Sys2Proof.Machine

/-- What the host does next takes effect, completely. With nothing to do the block is idle and keeps all its state
(spec/60_exceptions.md rule R147). -/
def step (s : State) : Host.Outcome State Fault Refusal :=
  match s.pending with
  | [] => .next s
  | a :: rest => runAct a { s with pending := rest }

/-- The state in which the next step runs the instruction of a row's bits. -/
def State.withFetchWord (s : State) (nbits w : Nat) : State := s.placeTableWord nbits w

end Sys2Proof.Machine
end

