-- ==== Sys2Proof/Machine/HostSide.lean ====
section
/-! DEFINITION. The host's side of the block as far as the spec writes it down: the pseudo-commands (spec/30_encoding.md rules
R58, R59), the procedure of one poll cycle (spec/42_poll_sequencer.md rules R110, R123), and what a reading means to the
consumer of an event (rules R15, R112). None of it is state of the block. -/

namespace Sys2Proof.Machine

/-- The line of assembler of a command (rule R58); the frame forms are not commands. -/
def asmLine (i : Instr) : Option String :=
  match i with
  | .fpush b => some (i.mnemonic ++ " " ++ toString b.toNat)
  | .cupd b => some (i.mnemonic ++ " " ++ toString b.toNat)
  | .cgen n => some (i.mnemonic ++ " " ++ toString n.toNat)
  | .fclr => some i.mnemonic
  | .cinit => some i.mnemonic
  | .capp => some i.mnemonic
  | .cvfy => some i.mnemonic
  | .fdec => some i.mnemonic
  | .preq => some i.mnemonic
  | .prsp => some i.mnemonic
  | .ptmo => some i.mnemonic
  | .rd16 _ _ _ _ => none
  | .rd32 _ _ _ _ _ _ => none

/-- `LOADF` (rule R59): one RawFrame into the buffer. -/
def loadFrameCommands (bs : List Byte) : List Instr := .fclr :: bs.map .fpush

/-- `CRC16` (rule R59): the checksum without the frame buffer. -/
def crc16Commands (bs : List Byte) : List Instr := .cinit :: bs.map .cupd

/-- `SEAL` (rule R59): a frame with its trailer. -/
def sealCommands (bs : List Byte) : List Instr := loadFrameCommands bs ++ [.capp]

/-- One iteration of the host's loop (rules R110, R123), by the bytes the transport delivered within the wait window;
`read` takes at most `FRAME_MAX` of them. -/
def pollCycleCommands (cfg : Config) (received : List Byte) : List Instr :=
  .preq :: (if received = [] then [.ptmo] else loadFrameCommands (received.take cfg.frameMax) ++ [.prsp])

/-- The commands one after another, each completely before the next (rule R39). -/
def execAll : List Instr → State → Out
  | [], s => .next s
  | i :: is, s =>
    match exec i s with
    | .next t => execAll is t
    | .fault r => .fault r
    | .refused r => .refused r

/-- A command as what the host does at the port; the frame forms are not commands. -/
def actsOf (i : Instr) : List HostAct :=
  match encode i with
  | .word w => [.command w]
  | .frame _ => []

/-- The host about to issue a sequence of commands before whatever it does next. -/
def State.issue (s : State) (is : List Instr) : State := { s with pending := is.flatMap actsOf ++ s.pending }

/-- The number a reading stands for: the exact rational `RVAL / 10`, or the signed integer (rules R15, R92, R93, R112). -/
def readingValue (kind : ReadingKind) (val : U32) : Rat :=
  match kind with
  | .scaled16 => (val.toNat : Rat) / 10
  | .int32 => (asI32 val : Rat)

/-- What the consumer of an event is told: the sensor's identifier and the number (rules R8, R112). -/
def publication (e : Event) : String × Rat := (Config.sensorId e.idx, readingValue e.kind e.val)

end Sys2Proof.Machine
end

