-- ==== Sys2Proof/Safety.lean ====
section
/-! DEFINITION. What counts as a sound state and as a run gone wrong, in the terms the statements use. -/

namespace Sys2Proof.Machine

/-- A block that has not faulted. "A model should treat a state with `FAULT = 1` as gone wrong" (rule R138). -/
abbrev State.Running (s : State) : Prop := s.blk.fault = false

/-- The decoder registers agree with one another (rule R17): a reading, or an error without a reading, or no decode yet. -/
def Block.DecoderConsistent (b : Block) : Prop :=
  (b.derr = .ok ∧ (b.rkind = .scaled16 ∨ b.rkind = .int32)) ∨
  (b.derr ≠ .ok ∧ b.rkind = .none ∧ b.rval = 0) ∨
  (b.derr = .ok ∧ b.rkind = .none ∧ b.rval = 0)

/-- The invariant of the machine. -/
structure State.Inv (s : State) : Prop where
  /-- The memory keeps its canonical form. -/
  fbWf : Memory.wf s.blk.fb = true
  /-- Only cells of the buffer are listed: `FB` has `FRAME_MAX` cells (rules R13, R36). -/
  fbBound : ∀ c ∈ s.blk.fb, c.1 < s.cfg.frameMax
  /-- `FLEN` is at most `FRAME_MAX` (rule R13). -/
  flenBound : s.blk.flen ≤ s.cfg.frameMax
  /-- Every byte of the frame was written (rules R13, R28): no unspecified byte is ever below `FLEN`. -/
  frameWritten : ∀ i < s.blk.flen, (Memory.lookup s.blk.fb i).isSome
  /-- The decoder registers agree (rule R17). -/
  decoder : s.blk.DecoderConsistent
  /-- A scaled reading is a 16-bit register value: `RVAL[31:16]` is 0 (rule R15). -/
  scaledHigh : s.blk.rkind = .scaled16 → s.blk.rval.extractLsb' 16 16 = 0
  /-- `FAULT` is set exactly when `FCAUSE` names a cause (rule R22). -/
  faultCause : s.blk.fault = true ↔ s.blk.fcause ≠ .none
  /-- Every transmitted frame is a row of the request table (rules R8, R57). -/
  txRows : ∀ f ∈ s.tx, ∃ k, f = reqTable k

/-- Two states that differ at most in bytes of `FB` at or above `FLEN`, the stale and unspecified ones (rule R28). -/
structure State.SameButStale (s t : State) : Prop where
  cfg : t.cfg = s.cfg
  tx : t.tx = s.tx
  evt : t.evt = s.evt
  rd : t.rd = s.rd
  pending : t.pending = s.pending
  freeCtr : t.freeCtr = s.freeCtr
  /-- Every element of the block but `FB`. -/
  blk : { t.blk with fb := [] } = { s.blk with fb := [] }
  /-- The frame. -/
  valid : ∀ i < s.blk.flen, Memory.read t.blk.fb i = Memory.read s.blk.fb i

/-- Two states that differ at most in the argument `PUBLISH_REQUIRES_CRC` and in the event trace (rule R106). -/
structure State.SameButEvents (s t : State) : Prop where
  frameMax : t.cfg.frameMaxParam = s.cfg.frameMaxParam
  blk : t.blk = s.blk
  tx : t.tx = s.tx
  rd : t.rd = s.rd
  pending : t.pending = s.pending
  freeCtr : t.freeCtr = s.freeCtr

/-- The state with `FAULT` set for a cause, and nothing else changed (rule R136). -/
def State.faulted (s : State) (c : Fcause) : State := { s with blk.fault := true, blk.fcause := c }

/-- The host is about to present the word `w`, before whatever it does next. -/
def State.present (s : State) (w : U16) : State := { s with pending := .command w :: s.pending }

/-- The words that are illegal by rule R48, by their fields. -/
def IllegalByRule (w : U16) : Prop :=
  opField w = 0x0 ∨ 0xC ≤ (opField w).toNat ∨ rsvField w ≠ 0 ∨
    ((opField w).toNat ∈ [0x1, 0x3, 0x6, 0x7, 0x8, 0x9, 0xA, 0xB] ∧ immField w ≠ 0)

/-- The elements of the state: those of rule R10, the outputs of rule R8, and the model's own fields. -/
inductive Element where
  | acc | vok | fb | flen | rkind | rval | derr | idx | pst | plast | fault | fcause
  | tx | evt
  | cfg | rd | pending | freeCtr
deriving DecidableEq, Repr

/-- The elements that the rule of an instruction lets it write; a command that can fault may write `FAULT` and `FCAUSE`
too (rules R10, R70 to R74, R86 to R88, R102 to R104, R120, R121, R135). -/
def writes : Instr → List Element
  | .fclr => [.flen]
  | .fpush _ => [.fb, .flen, .fault, .fcause]
  | .cinit => [.acc]
  | .cupd _ => [.acc]
  | .cgen _ => [.acc, .fault, .fcause]
  | .capp => [.fb, .flen, .acc, .fault, .fcause]
  | .cvfy => [.acc, .vok]
  | .fdec => [.rkind, .rval, .derr]
  | .preq => [.pst, .tx, .fault, .fcause]
  | .prsp => [.rkind, .rval, .derr, .evt, .acc, .vok, .idx, .plast, .pst, .fault, .fcause]
  | .ptmo => [.plast, .pst, .fault, .fcause]
  | .rd16 _ _ _ _ => [.rkind, .rval, .derr]
  | .rd32 _ _ _ _ _ _ => [.rkind, .rval, .derr]

/-- Two states agree on an element; on `FB`, every cell reads alike. -/
def Agree (s t : State) : Element → Prop
  | .acc => t.blk.acc = s.blk.acc
  | .vok => t.blk.vok = s.blk.vok
  | .fb => t.blk.fb = s.blk.fb ∧ ∀ a, Memory.read t.blk.fb a = Memory.read s.blk.fb a
  | .flen => t.blk.flen = s.blk.flen
  | .rkind => t.blk.rkind = s.blk.rkind
  | .rval => t.blk.rval = s.blk.rval
  | .derr => t.blk.derr = s.blk.derr
  | .idx => t.blk.idx = s.blk.idx
  | .pst => t.blk.pst = s.blk.pst
  | .plast => t.blk.plast = s.blk.plast
  | .fault => t.blk.fault = s.blk.fault
  | .fcause => t.blk.fcause = s.blk.fcause
  | .tx => t.tx = s.tx
  | .evt => t.evt = s.evt
  | .cfg => t.cfg = s.cfg
  | .rd => t.rd = s.rd
  | .pending => t.pending = s.pending
  | .freeCtr => t.freeCtr = s.freeCtr

/-- The cells of `FB` an instruction stores to: `FPUSH` at `FLEN`, `CAPP` at `FLEN` and `FLEN + 1` (rule R31). -/
def storedCells (i : Instr) (s : State) : List Nat :=
  match i with
  | .fclr => []
  | .fpush _ => [s.blk.flen]
  | .cinit => []
  | .cupd _ => []
  | .cgen _ => []
  | .capp => [s.blk.flen, s.blk.flen + 1]
  | .cvfy => []
  | .fdec => []
  | .preq => []
  | .prsp => []
  | .ptmo => []
  | .rd16 _ _ _ _ => []
  | .rd32 _ _ _ _ _ _ => []

/-- The words of operation code `op` whose `rsv`, or whose `imm8` where the command takes none, is not zero raise
`ILLEGAL_CMD` with no other effect: the "Exceptions" line of every command's rule. -/
def IllegalWordsFault (op : BitVec 4) (takesOperand : Bool) : Prop :=
  ∀ (s : State) (w : U16), s.Running → opField w = op →
    (rsvField w ≠ 0 ∨ (takesOperand = false ∧ immField w ≠ 0)) →
    step (s.present w) = .next (s.faulted .illegalCmd)

end Sys2Proof.Machine
end

