-- ==== Sys2Proof/Certificates/Slice0/Obligations.lean ====
section
/-! DEFINITION. The statements for the provers. Each docstring names the rules of the spec it formalises or rests on.
`s.Running` is `FAULT = 0`, the premise rule R138 asks every claim about a command to take. `s.present w` is the host about
to present the word `w`; that what the host does stands in State as a list is the model's choice (log entry 2). -/

open Sys2Proof Sys2Proof.Machine

/-! ### Reset -/

/-- Rule R151, element by element: what reset leaves in the block. That no cell of `FB` holds a byte is not in the rule, which
says "unspecified": it is the model's form of that (log entry 3). The request table is the constant of rule R52, whatever the state. -/
def Obligations.ResetGivesEveryElementItsValue : Prop :=
  State.reset.blk.acc = 0xFFFF ∧ State.reset.blk.vok = false ∧
  (∀ i, Memory.lookup State.reset.blk.fb i = none) ∧ State.reset.blk.flen = 0 ∧
  State.reset.blk.rkind = .none ∧ State.reset.blk.rval = 0 ∧ State.reset.blk.derr = .ok ∧
  State.reset.blk.idx = 0 ∧ State.reset.blk.pst = .idle ∧ State.reset.blk.plast = .none ∧
  State.reset.blk.fault = false ∧ State.reset.blk.fcause = .none ∧
  reqTable 0 = [0x01, 0x03, 0x00, 0x07, 0x00, 0x02, 0x75, 0xCA] ∧
  reqTable 1 = [0x01, 0x03, 0x00, 0x01, 0x00, 0x01, 0xD5, 0xCA] ∧
  reqTable 2 = [0x01, 0x03, 0x00, 0x00, 0x00, 0x01, 0x84, 0x0A]

/-- Rule R150: from every state, faulted or not, a pulse of `rst` puts the block at its reset values with empty traces,
ready for a command; and a step that clears `FAULT` is such a pulse: no command resets. That `cfg` and what the host does
next survive the pulse is the model's choice (log entry 11). -/
def Obligations.OnlyAResetPulseClearsFault : Prop :=
  (∀ (s : State) (q : List HostAct), s.pending = .reset :: q →
    ∃ t, step s = .next t ∧ t.blk = State.reset.blk ∧ t.Running ∧ t.tx = [] ∧ t.evt = [] ∧ t.cfg = s.cfg ∧
      t.pending = q) ∧
  (∀ s t : State, step s = .next t → s.blk.fault = true → t.blk.fault = false → ∃ q, s.pending = .reset :: q)

/-! ### The step -/

/-- Rules R7, R39, R86: presenting a word that decodes to `i` is executing `i`; and having a frame decoded that is of form
`i` is executing `i`, for the forms of rules R87 and R88. That what the host does stands in State, and that the frame forms
are instructions, are the model's choices (log entries 2 and 9). -/
def Obligations.StepRunsTheDecodedInstruction : Prop :=
  (∀ (s : State) (w : U16) (i : Instr), decodeWord w = .ok i → step (s.present w) = exec i s) ∧
  (∀ (s : State) (i : Instr), decodeFrame s.frame = .ok i → step (s.present 0x8000) = exec i s)

/-- Rules R7, R55, R114: a step is a total function. Every word completes in one of three ways: the block was already
faulted and nothing changes; a fault is raised, which writes `FAULT` and `FCAUSE` alone; or the command runs. -/
def Obligations.EveryWordEndsInOneOfThreeWays : Prop :=
  (∀ s : State, ∃ t, step s = .next t) ∧
  (∀ (s : State) (w : U16), ∃ t, step (s.present w) = .next t ∧
    ((s.blk.fault = true ∧ t = s) ∨
     (s.Running ∧ ∃ c, c ≠ .none ∧ t = s.faulted c) ∨
     (s.Running ∧ t.Running ∧ ∃ i, decodeWord w = .ok i ∧ exec i s = .next t)))

/-- Rule R147: with nothing presented the block is idle and keeps all its state. That this is a step is the model's choice
(log entry 2). -/
def Obligations.IdleBlockKeepsItsState : Prop :=
  ∀ s : State, s.pending = [] → step s = .next s

/-- Rules R39, R59: words issued one after another take effect as their commands do, each completely before the next; what
the host does after them is still to come. That the words stand in State as a list (`State.issue`, `pending`) is the model's
choice (log entry 2). -/
def Obligations.IssuedWordsRunInOrder : Prop :=
  ∀ (is : List Instr) (s : State), (∀ i ∈ is, ∃ w, encode i = .word w) →
    Host.Core.run Sys2Proof.core is.length (s.issue is) = execAll is s

/-! ### Faults -/

/-- Rule R48: which words are illegal, and that each raises `Fault(ILLEGAL_CMD)` with no other effect; the all-zero and the
all-one word among them. -/
def Obligations.IllegalWordsAreThoseOfTheTable : Prop :=
  (∀ w, (∃ e, decodeWord w = .error e) ↔ IllegalByRule w) ∧
  (∀ (s : State) (w : U16), s.Running → IllegalByRule w → step (s.present w) = .next (s.faulted .illegalCmd)) ∧
  IllegalByRule 0x0000 ∧ IllegalByRule 0xFFFF

/-- Rule R48: exactly 776 of the 65536 words are legal; the spec derives the number from rules R45 and R46. -/
def Obligations.ExactlyAsManyWordsAreLegal : Prop :=
  ∃ l : List U16, l.Nodup ∧ l.length = 1 + 256 + 1 + 256 + 256 + 1 + 1 + 1 + 1 + 1 + 1 ∧ l.length = 776 ∧
    ∀ w, w ∈ l ↔ ∃ i, decodeWord w = .ok i

/-- Rule R135: a word raises a fault, and with which cause, exactly as the table says; the causes have the codes 1 to 4. -/
def Obligations.FaultCausesAreThoseOfTheTable : Prop :=
  (∀ (s t : State) (w : U16) (c : Fcause), s.Running → step (s.present w) = .next t →
    ((t.blk.fault = true ∧ t.blk.fcause = c) ↔
      (c = .illegalCmd ∧ IllegalByRule w) ∨
      (c = .bufOverflow ∧ (∃ b, decodeWord w = .ok (.fpush b)) ∧ s.blk.flen = s.cfg.frameMax) ∨
      (c = .bufOverflow ∧ decodeWord w = .ok .capp ∧ s.blk.flen + 2 > s.cfg.frameMax) ∨
      (c = .range ∧ ∃ n : Byte, decodeWord w = .ok (.cgen n) ∧ n.toNat > s.blk.flen) ∨
      (c = .sequence ∧ decodeWord w = .ok .preq ∧ s.blk.pst ≠ .idle) ∨
      (c = .sequence ∧ (decodeWord w = .ok .prsp ∨ decodeWord w = .ok .ptmo) ∧ s.blk.pst ≠ .awaitingResponse))) ∧
  Fcause.bits .none = 0 ∧ Fcause.bits .illegalCmd = 1 ∧ Fcause.bits .bufOverflow = 2 ∧ Fcause.bits .range = 3 ∧
  Fcause.bits .sequence = 4 ∧ (∀ c : Fcause, c.bits ≠ 5 ∧ c.bits ≠ 6 ∧ c.bits ≠ 7)

/-- Rule R136: raising a fault on a running block sets `FAULT` and the cause and changes nothing else; and whichever word
raises one, that is all that happened: no other state changed, nothing was emitted, no command was partly done. -/
def Obligations.FaultEntryWritesFaultAndCauseOnly : Prop :=
  (∀ (s : State) (c : Fcause), s.Running → s.raise c = { s with blk.fault := true, blk.fcause := c }) ∧
  (∀ (s t : State) (w : U16), s.Running → step (s.present w) = .next t → t.blk.fault = true →
    ∃ c, c ≠ .none ∧ t = { s with blk.fault := true, blk.fcause := c })

/-- Rule R137: the encoding is checked first; `0x5109` is `ILLEGAL_CMD` whatever `FLEN` is. -/
def Obligations.EncodingIsCheckedFirst : Prop :=
  (∀ (s : State) (w : U16) (e : IllegalWord), s.Running → decodeWord w = .error e →
    step (s.present w) = .next (s.faulted .illegalCmd)) ∧
  (∀ s : State, s.Running → step (s.present 0x5109) = .next (s.faulted .illegalCmd))

/-- Rule R138: while `FAULT = 1` every word, legal or not, completes with no change and no output; status reads still
work; only reset clears `FAULT`. The rule speaks of command words: that the frame forms do nothing either is read from it by
inference (log entry 13), and the record of status reads is the model's (log entry 5). -/
def Obligations.FaultedBlockIgnoresEveryWord : Prop :=
  (∀ (s : State) (w : U16), s.blk.fault = true → step (s.present w) = .next s) ∧
  (∀ (s : State) (i : Instr), s.blk.fault = true → exec i s = .next s) ∧
  (∀ (s : State) (n : Nat) (q : List HostAct), s.blk.fault = true → s.pending = .readStatus n :: q →
    ∃ t v, step s = .next t ∧ t.blk = s.blk ∧ t.rd = s.rd ++ [v]) ∧
  (∀ s t : State, s.blk.fault = true → step s = .next t → (∀ q, s.pending ≠ .reset :: q) → t.blk = s.blk)

/-! ### Encodings -/

/-- Rules R45, R46, R51: decoding what an instruction encodes to gives the instruction back, with every operand at every
value, the whole frame of a form included. -/
def Obligations.DecodeOfEncodeIsTheInstruction : Prop :=
  ∀ i : Instr, decode (encode i) = .ok i

/-- Rules R45, R48, R51, R55: each word and each frame that decodes is the encoding of what it decodes to; so no two codes
stand for one instruction. -/
def Obligations.EncodeOfDecodeIsTheCode : Prop :=
  ∀ (c : Code) (i : Instr), decode c = .ok i → encode i = c

/-- Rules R46, R51: some words and frames, written out from the encodings of the spec. -/
def Obligations.SampleWordsDecodeAsListed : Prop :=
  decodeWord 0x1000 = .ok .fclr ∧ decodeWord 0x202A = .ok (.fpush 0x2A) ∧ decodeWord 0x3000 = .ok .cinit ∧
  decodeWord 0x4031 = .ok (.cupd 0x31) ∧ decodeWord 0x5006 = .ok (.cgen 6) ∧ decodeWord 0x6000 = .ok .capp ∧
  decodeWord 0x7000 = .ok .cvfy ∧ decodeWord 0x8000 = .ok .fdec ∧ decodeWord 0x9000 = .ok .preq ∧
  decodeWord 0xA000 = .ok .prsp ∧ decodeWord 0xB000 = .ok .ptmo ∧
  decodeFrame [0x01, 0x03, 0x02, 0x09, 0x2A, 0x3F, 0xCB] = .ok (.rd16 0x01 0x09 0x2A [0x3F, 0xCB]) ∧
  decodeFrame [0x01, 0x03, 0x04, 0x00, 0x01, 0x00, 0x02, 0x2A, 0x32] =
    .ok (.rd32 0x01 0x00 0x01 0x00 0x02 [0x2A, 0x32])

/-- Rule R53: a CRC in a frame, low byte first, and the value read back from its two bytes. -/
def Obligations.TrailerIsLowByteFirst : Prop :=
  ∀ c : U16, trailerBytes c = [c.extractLsb' 0 8, c.extractLsb' 8 8] ∧
    trailerValue (c.extractLsb' 0 8) (c.extractLsb' 8 8) = c ∧
    ∀ lo hi : Byte, (trailerValue lo hi).toNat = hi.toNat * 256 + lo.toNat

/-- Rule R52: the request table byte by byte; each row ends in the CRC of its first six bytes, low byte first. That the
register start and count stand big-endian, and which index a row has, are inferences that the spec marks as its own
(rules R49, R32 (c), R52). -/
def Obligations.RequestRowsAreSealed : Prop :=
  (∀ k : Fin 3, (reqTable k).length = 8 ∧ byteAt (reqTable k) 0 = 0x01 ∧ byteAt (reqTable k) 1 = 0x03 ∧
    sealFrame ((reqTable k).take 6) = reqTable k) ∧
  (crc16 ((reqTable 0).take 6) = 0xCA75 ∧ crc16 ((reqTable 1).take 6) = 0xCAD5 ∧ crc16 ((reqTable 2).take 6) = 0x0A84) ∧
  (cat16 (byteAt (reqTable 0) 2) (byteAt (reqTable 0) 3) = 0x0007 ∧
   cat16 (byteAt (reqTable 1) 2) (byteAt (reqTable 1) 3) = 0x0001 ∧
   cat16 (byteAt (reqTable 2) 2) (byteAt (reqTable 2) 3) = 0x0000) ∧
  (cat16 (byteAt (reqTable 0) 4) (byteAt (reqTable 0) 5) = 2 ∧ cat16 (byteAt (reqTable 1) 4) (byteAt (reqTable 1) 5) = 1 ∧
   cat16 (byteAt (reqTable 2) 4) (byteAt (reqTable 2) 5) = 1) ∧
  reqTable 0 = [0x01, 0x03, 0x00, 0x07, 0x00, 0x02, 0x75, 0xCA] ∧
  reqTable 1 = [0x01, 0x03, 0x00, 0x01, 0x00, 0x01, 0xD5, 0xCA] ∧
  reqTable 2 = [0x01, 0x03, 0x00, 0x00, 0x00, 0x01, 0x84, 0x0A]

/-- Rule R57: a transmitted frame on `tx_data`, byte 0 in the highest bits; an event on its port, whose index is that of
the sensor polled, and whose kind and value are the decoder registers' after the command; its consumer looks the sensor's
identifier up by the index. -/
def Obligations.OutputPortsCarryFrameAndEvent : Prop :=
  (∀ (k : Fin 3) (j : Nat), j < 8 → (txData (reqTable k)).extractLsb' (56 - 8 * j) 8 = byteAt (reqTable k) j) ∧
  txData (reqTable 0) = 0x01030007000275CA ∧
  (∀ s t : State, s.Running → s.blk.pst = .idle → exec .preq s = .next t → t.tx = s.tx ++ [reqTable s.blk.idx]) ∧
  (∀ (s t : State) (e : Event), exec .prsp s = .next t → t.evt = s.evt ++ [e] →
    evtPort e = (idxBits s.blk.idx, t.blk.rkind.bits, t.blk.rval)) ∧
  (∀ e : Event, (evtPort e).2.1 = 1 ∨ (evtPort e).2.1 = 2) ∧
  (∀ e : Event, (publication e).1 = Config.sensorId e.idx)

/-! ### Unit F -/

/-- Rule R120: `FCLR` sets `FLEN` to 0 and changes nothing else, the bytes of `FB` included. -/
def Obligations.FclrEmptiesTheFrame : Prop :=
  decodeWord 0x1000 = .ok .fclr ∧ IllegalWordsFault 0x1 false ∧
  (∀ s : State, s.Running → exec .fclr s = .next { s with blk.flen := 0 })

/-- Rule R121: `FPUSH b` stores `b` at `FLEN` and increments `FLEN`, so the frame grows by `b`; every other cell and every
other element stays; on a full buffer it raises `BUF_OVERFLOW` and writes nothing. -/
def Obligations.FpushAppendsOneByte : Prop :=
  (∀ b : Byte, decodeWord (0x2000 ||| b.setWidth 16) = .ok (.fpush b)) ∧ IllegalWordsFault 0x2 true ∧
  (∀ (s : State) (b : Byte), s.Running → s.blk.flen = s.cfg.frameMax →
    exec (.fpush b) s = .next (s.faulted .bufOverflow)) ∧
  (∀ (s : State) (b : Byte), s.Running → s.blk.flen ≠ s.cfg.frameMax →
    ∃ t, exec (.fpush b) s = .next t ∧
      t = { s with blk.fb := t.blk.fb, blk.flen := s.blk.flen + 1 } ∧
      Memory.read t.blk.fb s.blk.flen = b ∧
      (∀ a, a ≠ s.blk.flen → Memory.read t.blk.fb a = Memory.read s.blk.fb a) ∧
      t.frame = s.frame ++ [b])

/-- Rules R59, R123: `FCLR` and then one `FPUSH` for each byte, at most `FRAME_MAX` of them, leave exactly those bytes in
order as the frame, whatever was in the buffer, and change nothing but the buffer. -/
def Obligations.LoadingPutsTheBytesInTheFrame : Prop :=
  ∀ (s : State) (bs : List Byte), s.Running → bs.length ≤ s.cfg.frameMax →
    ∃ t, execAll (loadFrameCommands bs) s = .next t ∧ t.frame = bs ∧
      t = { s with blk.fb := t.blk.fb, blk.flen := bs.length }

/-! ### Unit C -/

/-- Rule R65: each bit of one bit step. Bit `i` moves down from bit `i + 1`, bit 15 takes a 0, and the bit shifted out
flips bits 15, 13 and 0. -/
def Obligations.CrcBitShiftsAndFlips : Prop :=
  ∀ (a : U16) (i : Nat), i < 16 →
    (crcBit a).getLsbD i =
      ((decide (i < 15) && a.getLsbD (i + 1)) ^^ (a.getLsbD 0 && decide (i = 15 ∨ i = 13 ∨ i = 0)))

/-- Rules R66, R75: one byte step is linear over exclusive-or in the accumulator and the byte together: it is made of shifts
and exclusive-ors alone, with no carry between bits. -/
def Obligations.CrcByteIsLinear : Prop :=
  ∀ (a c : U16) (b d : Byte), crcByte (a ^^^ c) (b ^^^ d) = crcByte a b ^^^ crcByte c d

/-- Rule R79: the CRC of a frame together with its own correct trailer is zero. -/
def Obligations.SealedFrameHasZeroResidue : Prop :=
  ∀ bs : List Byte, crc16 (sealFrame bs) = 0x0000

/-- Rule R77: `verify` is true exactly of a frame of 5 bytes or more whose last two bytes, low byte first, are the CRC of
all before them; a frame whose trailer was recomputed verifies if it has 5 bytes, and no shorter frame does. -/
def Obligations.VerifyHoldsExactlyForSealedFrames : Prop :=
  (∀ f : List Byte, verify f = true ↔ 5 ≤ f.length ∧ ∃ bs, f = sealFrame bs) ∧
  (∀ f : List Byte, 5 ≤ f.length → verify (recomputeTrailer f) = true) ∧
  (∀ bs : List Byte, verify (sealFrame bs) = true ↔ 3 ≤ bs.length)

/-- Rule R70: `CINIT` sets `ACC` to `0xFFFF` and changes nothing else. -/
def Obligations.CinitSetsTheInitialValue : Prop :=
  decodeWord 0x3000 = .ok .cinit ∧ IllegalWordsFault 0x3 false ∧
  (∀ s : State, s.Running → exec .cinit s = .next { s with blk.acc := 0xFFFF })

/-- Rule R71: `CUPD b` folds `b` into `ACC`, whatever wrote it last, and changes nothing else. -/
def Obligations.CupdFoldsOneByte : Prop :=
  (∀ b : Byte, decodeWord (0x4000 ||| b.setWidth 16) = .ok (.cupd b)) ∧ IllegalWordsFault 0x4 true ∧
  (∀ (s : State) (b : Byte), s.Running → exec (.cupd b) s = .next { s with blk.acc := crcByte s.blk.acc b }) ∧
  crcByte 0xFFFF 0x00 = 0x40BF ∧ crcByte 0xFFFF 0x01 = 0x807E

/-- Rule R72: `CGEN n` puts the CRC of the first `n` frame bytes in `ACC` and changes nothing else; `n > FLEN` raises
`RANGE`; `n = 0` gives `0xFFFF`, and the whole of a sealed frame gives 0. -/
def Obligations.CgenComputesThePrefixCrc : Prop :=
  (∀ n : Byte, decodeWord (0x5000 ||| n.setWidth 16) = .ok (.cgen n)) ∧ IllegalWordsFault 0x5 true ∧
  (∀ (s : State) (n : Byte), s.Running → n.toNat > s.blk.flen → exec (.cgen n) s = .next (s.faulted .range)) ∧
  (∀ (s : State) (n : Byte), s.Running → n.toNat ≤ s.blk.flen →
    exec (.cgen n) s = .next { s with blk.acc := crc16 (s.frame.take n.toNat) }) ∧
  (∀ s : State, s.Running → exec (.cgen 0) s = .next { s with blk.acc := 0xFFFF }) ∧
  (∀ (s : State) (n : Byte) (bs : List Byte), s.Running → n.toNat = s.blk.flen → s.frame = sealFrame bs →
    exec (.cgen n) s = .next { s with blk.acc := 0x0000 }) ∧
  (∀ s : State, s.Running → s.frame = [0x01, 0x03, 0x00, 0x07, 0x00, 0x02, 0x75, 0xCA] →
    exec (.cgen 6) s = .next { s with blk.acc := 0xCA75 })

/-- Rule R73: `CAPP` stores the CRC of the frame at `FLEN` and `FLEN + 1`, low byte first, adds 2 to `FLEN` and puts the CRC
in `ACC`, so the frame becomes `seal` of the old one; every other cell and element stays; with fewer than two cells free
it raises `BUF_OVERFLOW`. On an empty buffer it appends `FF FF`; on a sealed frame, `00 00`. -/
def Obligations.CappSealsTheFrame : Prop :=
  decodeWord 0x6000 = .ok .capp ∧ IllegalWordsFault 0x6 false ∧
  (∀ s : State, s.Running → s.blk.flen + 2 > s.cfg.frameMax → exec .capp s = .next (s.faulted .bufOverflow)) ∧
  (∀ s : State, s.Running → s.blk.flen + 2 ≤ s.cfg.frameMax →
    ∃ t, exec .capp s = .next t ∧
      t = { s with blk.fb := t.blk.fb, blk.flen := s.blk.flen + 2, blk.acc := crc16 s.frame } ∧
      Memory.read t.blk.fb s.blk.flen = (crc16 s.frame).extractLsb' 0 8 ∧
      Memory.read t.blk.fb (s.blk.flen + 1) = (crc16 s.frame).extractLsb' 8 8 ∧
      (∀ a, a ≠ s.blk.flen → a ≠ s.blk.flen + 1 → Memory.read t.blk.fb a = Memory.read s.blk.fb a) ∧
      t.frame = sealFrame s.frame) ∧
  sealFrame [] = [0xFF, 0xFF] ∧ (∀ bs, sealFrame (sealFrame bs) = sealFrame bs ++ [0x00, 0x00]) ∧
  sealFrame [0x01, 0x03, 0x00, 0x07, 0x00, 0x02] = reqTable 0

/-- Rule R74: `CVFY` on fewer than 5 bytes clears `VOK` and leaves `ACC`; otherwise `ACC` is the CRC of all bytes but the last
two and `VOK` says whether it equals them, low byte first. Nothing else changes, and `VOK` is `verify` of the frame. -/
def Obligations.CvfyVerifiesTheFrame : Prop :=
  decodeWord 0x7000 = .ok .cvfy ∧ IllegalWordsFault 0x7 false ∧
  (∀ s : State, s.Running → s.blk.flen < 5 → exec .cvfy s = .next { s with blk.vok := false }) ∧
  (∀ s : State, s.Running → 5 ≤ s.blk.flen →
    exec .cvfy s = .next { s with
      blk.acc := crc16 (s.frame.take (s.blk.flen - 2))
      blk.vok := decide (crc16 (s.frame.take (s.blk.flen - 2)) =
        cat16 (byteAt s.frame (s.blk.flen - 1)) (byteAt s.frame (s.blk.flen - 2))) }) ∧
  (∀ s : State, s.Running → ∃ t, exec .cvfy s = .next t ∧ t.blk.vok = verify s.frame) ∧
  verify [0x01, 0x03, 0x40, 0x21] = false ∧ verify [0x01, 0x83, 0x02, 0xC0, 0xF1] = true ∧
  verify [0x01, 0x03, 0x00, 0x07, 0x00, 0x02, 0xCA, 0x75] = false ∧
  (∀ s : State, s.Running → s.frame = [0x01, 0x03, 0x00, 0x07, 0x00, 0x02, 0x75, 0xCA] →
    exec .cvfy s = .next { s with blk.acc := 0xCA75, blk.vok := true })

/-- Rule R76: streaming and block computation agree: `CINIT` and one `CUPD` for each byte leave the same `ACC` as loading the
bytes and `CGEN` of their number, both the `crc16` of the bytes; the stream leaves the frame buffer alone. -/
def Obligations.StreamingAgreesWithBlockCrc : Prop :=
  (∀ (s : State) (bs : List Byte), s.Running →
    execAll (crc16Commands bs) s = .next { s with blk.acc := crc16 bs }) ∧
  (∀ (s : State) (bs : List Byte), s.Running → bs.length ≤ s.cfg.frameMax →
    ∃ t, execAll (loadFrameCommands bs ++ [.cgen (BitVec.ofNat 8 bs.length)]) s = .next t ∧ t.blk.acc = crc16 bs) ∧
  (∀ xs ys : List Byte, crc16 (xs ++ ys) = ys.foldl crcByte (crc16 xs))

/-! ### Unit D -/

/-- Rule R132: which frames give which error, by length and bytes 1 and 2 alone; the errors have the codes 1 to 3. -/
def Obligations.DecodeErrorsHaveTheirCauses : Prop :=
  (∀ f : List Byte, decodeReading f = .error .unsupportedFunction ↔ f.length < 2 ∨ byteAt f 1 ≠ 0x03) ∧
  (∀ f : List Byte, decodeReading f = .error .unrecognizedPayloadLength ↔
    3 ≤ f.length ∧ byteAt f 1 = 0x03 ∧ byteAt f 2 ≠ 0x02 ∧ byteAt f 2 ≠ 0x04) ∧
  (∀ f : List Byte, decodeReading f = .error .frameTooShort ↔
    byteAt f 1 = 0x03 ∧ (f.length = 2 ∨ (byteAt f 2 = 0x02 ∧ (f.length = 3 ∨ f.length = 4)) ∨
      (byteAt f 2 = 0x04 ∧ 3 ≤ f.length ∧ f.length ≤ 6))) ∧
  (derrOf .unsupportedFunction).bits = 1 ∧ (derrOf .unrecognizedPayloadLength).bits = 2 ∧
  (derrOf .frameTooShort).bits = 3

/-- Rule R90: `decode` does not examine the device address, nor anything after the data: a frame decodes to the same
reading from any address, with its trailer cut off and with any bytes after it; a function code with its high bit set is
unsupported like any other that is not `0x03`. -/
def Obligations.DecodeIgnoresAddressAndTrailer : Prop :=
  (∀ (a a' : Byte) (f : List Byte), decodeReading (a :: f) = decodeReading (a' :: f)) ∧
  (∀ (f g : List Byte) (r : Reading), decodeReading f = .ok r → decodeReading (f ++ g) = .ok r) ∧
  (∀ (f : List Byte) (kind : ReadingKind) (v : U32), decodeReading f = .ok (kind, v) →
    decodeReading (f.take (if kind = .scaled16 then 5 else 7)) = .ok (kind, v)) ∧
  (∀ (a : Byte) (f : List Byte), decodeReading (a :: 0x83 :: f) = .error .unsupportedFunction)

/-- Rule R86: `FDEC` writes the three decoder registers, all of them every time, from `decode` of the frame, and changes
nothing else; on an empty buffer the error is `UnsupportedFunction`. -/
def Obligations.FdecWritesTheDecoderRegisters : Prop :=
  decodeWord 0x8000 = .ok .fdec ∧ IllegalWordsFault 0x8 false ∧
  (∀ (s : State) (kind : ReadingKind) (v : U32), s.Running → decodeReading s.frame = .ok (kind, v) →
    exec .fdec s = .next { s with blk.rkind := kind.rkind, blk.rval := v, blk.derr := .ok }) ∧
  (∀ (s : State) (e : FrameError), s.Running → decodeReading s.frame = .error e →
    exec .fdec s = .next { s with blk.rkind := .none, blk.rval := 0, blk.derr := derrOf e }) ∧
  (∀ s : State, s.Running → s.blk.flen = 0 →
    exec .fdec s = .next { s with blk.rkind := .none, blk.rval := 0, blk.derr := .unsupportedFunction }) ∧
  (∀ s : State, s.Running → s.frame = [0x01, 0x03, 0x02, 0x09, 0x2A, 0x3F, 0xCB] →
    exec .fdec s = .next { s with blk.rkind := .scaled16, blk.rval := 0x0000092A, blk.derr := .ok }) ∧
  readingValue .scaled16 0x0000092A = 2346 / 10

/-- Rule R87: form `RD16` is selected exactly by function code 3, byte-count 2 and at least 5 bytes; it gives the register
of bytes 3 and 4, the high byte first, as a scaled reading, whose value is the register divided by 10. That a form is an
instruction, with what rule R86 says the decoder writes for it, is the model's choice (log entry 9). -/
def Obligations.Rd16GivesTheScaledRegister : Prop :=
  (∀ f : List Byte, (∃ a d0 d1 rest, decodeFrame f = .ok (.rd16 a d0 d1 rest)) ↔
    byteAt f 1 = 0x03 ∧ byteAt f 2 = 0x02 ∧ 5 ≤ f.length) ∧
  (∀ (f rest : List Byte) (a d0 d1 : Byte), decodeFrame f = .ok (.rd16 a d0 d1 rest) →
    d0 = byteAt f 3 ∧ d1 = byteAt f 4) ∧
  (∀ (s : State) (a d0 d1 : Byte) (rest : List Byte), s.Running →
    exec (.rd16 a d0 d1 rest) s =
      .next { s with blk.rkind := .scaled16, blk.rval := (cat16 d0 d1).setWidth 32, blk.derr := .ok }) ∧
  (∀ reg : U16, readingValue .scaled16 (zext32 reg) = (reg.toNat : Rat) / 10) ∧
  (∀ d0 d1 : Byte, (cat16 d0 d1).toNat = d0.toNat * 256 + d1.toNat ∧
    (zext32 (cat16 d0 d1)).extractLsb' 16 16 = 0) ∧
  readingValue .scaled16 (zext32 0x0000) = 0 ∧ readingValue .scaled16 (zext32 0xFFFF) = 65535 / 10 ∧
  readingValue .scaled16 (zext32 (cat16 0x09 0x2A)) = 2346 / 10

/-- Rule R88: form `RD32` is selected exactly by function code 3, byte-count 4 and at least 7 bytes; it gives bytes 3 to 6 as
one 32-bit value, the first register the high half, whose reading is that value in two's complement. The range of the
reading is rule R92's, which the spec marks as derived, and two's complement it marks as general knowledge. That a form is
an instruction, with what rule R86 says the decoder writes for it, is the model's choice (log entry 9). -/
def Obligations.Rd32GivesTheCombinedPair : Prop :=
  (∀ f : List Byte, (∃ a d0 d1 d2 d3 rest, decodeFrame f = .ok (.rd32 a d0 d1 d2 d3 rest)) ↔
    byteAt f 1 = 0x03 ∧ byteAt f 2 = 0x04 ∧ 7 ≤ f.length) ∧
  (∀ (f rest : List Byte) (a d0 d1 d2 d3 : Byte), decodeFrame f = .ok (.rd32 a d0 d1 d2 d3 rest) →
    d0 = byteAt f 3 ∧ d1 = byteAt f 4 ∧ d2 = byteAt f 5 ∧ d3 = byteAt f 6) ∧
  (∀ (s : State) (a d0 d1 d2 d3 : Byte) (rest : List Byte), s.Running →
    exec (.rd32 a d0 d1 d2 d3 rest) s =
      .next { s with blk.rkind := .int32, blk.rval := cat16 d0 d1 ++ cat16 d2 d3, blk.derr := .ok }) ∧
  (∀ hi lo : U16, (cat32 hi lo).toNat = hi.toNat * 65536 + lo.toNat) ∧
  (∀ v : U32, readingValue .int32 v = (v.toInt : Rat) ∧ -2147483648 ≤ asI32 v ∧ asI32 v ≤ 2147483647) ∧
  asI32 (cat32 0xFFFF 0xFFFF) = -1 ∧ asI32 (cat32 0x8000 0x0000) = -2147483648 ∧
  asI32 (cat32 0x7FFF 0xFFFF) = 2147483647 ∧ asI32 (cat32 0x0000 0x0000) = 0 ∧
  asI32 (cat32 (cat16 0x00 0x01) (cat16 0x00 0x02)) = 65538

/-- Rule R17: after `FDEC`, and after a `PRSP` that runs the decoder, either `DERR = OK` and there is a reading, or `DERR` is
an error and `RKIND = NONE` and `RVAL = 0`; before the first decode `DERR = OK` and `RKIND = NONE`. -/
def Obligations.DecodeLeavesReadingOrErrorNeverBoth : Prop :=
  (∀ s t : State, s.Running →
    exec .fdec s = .next t ∨ (exec .prsp s = .next t ∧ s.blk.pst = .awaitingResponse ∧ s.blk.flen ≠ 0) →
    (t.blk.derr = .ok ∧ (t.blk.rkind = .scaled16 ∨ t.blk.rkind = .int32)) ∨
    (t.blk.derr ≠ .ok ∧ t.blk.rkind = .none ∧ t.blk.rval = 0)) ∧
  State.reset.blk.derr = .ok ∧ State.reset.blk.rkind = .none

/-! ### Unit P -/

/-- Rule R102: `PREQ` in `Idle` transmits the request frame of the current sensor and waits for the response; it changes
nothing else, the frame buffer included; with a request outstanding it raises `SEQUENCE`. -/
def Obligations.PreqSendsTheCurrentRequest : Prop :=
  decodeWord 0x9000 = .ok .preq ∧ IllegalWordsFault 0x9 false ∧
  (∀ s : State, s.Running → s.blk.pst = .idle →
    exec .preq s = .next { s with tx := s.tx ++ [reqTable s.blk.idx], blk.pst := .awaitingResponse }) ∧
  (∀ s : State, s.Running → s.blk.pst ≠ .idle → exec .preq s = .next (s.faulted .sequence)) ∧
  (∃ t, exec .preq State.reset = .next t ∧ t.tx = [[0x01, 0x03, 0x00, 0x07, 0x00, 0x02, 0x75, 0xCA]] ∧
    t.blk.pst = .awaitingResponse)

/-- Rule R103: `PTMO` while a response is awaited ends the cycle as a timeout and changes nothing else: no event, the same
sensor again; otherwise it raises `SEQUENCE`. -/
def Obligations.PtmoEndsTheCycleSilently : Prop :=
  decodeWord 0xB000 = .ok .ptmo ∧ IllegalWordsFault 0xB false ∧
  (∀ s : State, s.Running → s.blk.pst = .awaitingResponse →
    exec .ptmo s = .next { s with blk.plast := .timeout, blk.pst := .idle }) ∧
  (∀ s : State, s.Running → s.blk.pst ≠ .awaitingResponse → exec .ptmo s = .next (s.faulted .sequence))

/-- Rule R104: what `PRSP` does on every frame: decode, publish, verify, advance or retry, and nothing else; the event
carries the index polled, before any advance; the frame buffer stays. -/
def Obligations.PrspDecodesPublishesVerifiesAdvances : Prop :=
  decodeWord 0xA000 = .ok .prsp ∧ IllegalWordsFault 0xA false ∧
  (∀ s : State, s.Running → s.blk.pst ≠ .awaitingResponse → exec .prsp s = .next (s.faulted .sequence)) ∧
  (∀ s : State, s.Running → s.blk.pst = .awaitingResponse → s.blk.flen = 0 →
    exec .prsp s = .next { s with blk.plast := .timeout, blk.pst := .idle }) ∧
  (∀ (s : State) (kind : ReadingKind) (v : U32), s.Running → s.blk.pst = .awaitingResponse → s.blk.flen ≠ 0 →
    decodeReading s.frame = .ok (kind, v) →
    exec .prsp s = .next { s with
      evt := if s.cfg.publishRequiresCrc = false ∨ verify s.frame = true then s.evt ++ [⟨s.blk.idx, kind, v⟩] else s.evt
      blk.rkind := kind.rkind
      blk.rval := v
      blk.derr := .ok
      blk.acc := if 5 ≤ s.blk.flen then crc16 (s.frame.take (s.blk.flen - 2)) else s.blk.acc
      blk.vok := verify s.frame
      blk.idx := if verify s.frame = true then s.blk.idx + 1 else s.blk.idx
      blk.plast := if verify s.frame = true then .validated else .invalid
      blk.pst := .idle }) ∧
  (∀ (s : State) (e : FrameError), s.Running → s.blk.pst = .awaitingResponse → s.blk.flen ≠ 0 →
    decodeReading s.frame = .error e →
    exec .prsp s = .next { s with
      blk.rkind := .none
      blk.rval := 0
      blk.derr := derrOf e
      blk.acc := if 5 ≤ s.blk.flen then crc16 (s.frame.take (s.blk.flen - 2)) else s.blk.acc
      blk.vok := verify s.frame
      blk.idx := if verify s.frame = true then s.blk.idx + 1 else s.blk.idx
      blk.plast := if verify s.frame = true then .validated else .invalid
      blk.pst := .idle }) ∧
  (2 : Fin 3) + 1 = 0 ∧
  (∃ t, execAll (.preq :: loadFrameCommands [0x01, 0x03, 0x04, 0x00, 0x01, 0x00, 0x02, 0x2A, 0x32] ++ [.prsp]) State.reset =
      .next t ∧ t.evt = [⟨0, .int32, 0x00010002⟩] ∧ t.blk.vok = true ∧ t.blk.acc = 0x322A ∧ t.blk.idx = 1 ∧
      t.blk.plast = .validated ∧ t.blk.pst = .idle) ∧
  verify [0x01, 0x83, 0x02, 0xC0, 0xF1] = true ∧
  decodeReading [0x01, 0x83, 0x02, 0xC0, 0xF1] = .error .unsupportedFunction

/-- Rule R108: `PRSP` with `FLEN = 0` and `PTMO` have the same effect: no event, the index stays, and the decoder registers,
`VOK` and `ACC` keep their values. -/
def Obligations.EmptyResponseIsATimeout : Prop :=
  (∀ s : State, s.blk.flen = 0 → exec .prsp s = exec .ptmo s) ∧
  (∀ s : State, s.Running → s.blk.flen = 0 → s.blk.pst = .awaitingResponse →
    ∃ t, exec .prsp s = .next t ∧ t.evt = s.evt ∧ t.blk.idx = s.blk.idx ∧ t.blk.rkind = s.blk.rkind ∧
      t.blk.rval = s.blk.rval ∧ t.blk.derr = s.blk.derr ∧ t.blk.vok = s.blk.vok ∧ t.blk.acc = s.blk.acc)

/-- Rule R105: over every step of every state, the index changes in one way only: a `PRSP` on a frame that verifies, while a
response is awaited, moves it to the next sensor, from the last back to the first. Reset puts it at 0. -/
def Obligations.IndexMovesOnlyByAVerifiedResponse : Prop :=
  ∀ s t : State, step s = .next t → t.blk.idx ≠ s.blk.idx →
    (∃ q, s.pending = .reset :: q ∧ t.blk.idx = 0) ∨
    (∃ q, s.pending = .command 0xA000 :: q ∧ s.Running ∧ s.blk.pst = .awaitingResponse ∧ verify s.frame = true ∧
      t.blk.idx.val = (s.blk.idx.val + 1) % 3)

/-- Rule R100: over every step, `PST` moves only from `Idle` to `AwaitingResponse` by `PREQ`, which transmits a request, and
from `AwaitingResponse` to `Idle` by `PTMO` or `PRSP`, which record how the cycle ended; and reset puts it at `Idle`. A frame
is transmitted and an event emitted in those transitions only. -/
def Obligations.PollStateMovesOnlyByPollCommands : Prop :=
  ∀ s t : State, step s = .next t → (∀ q, s.pending ≠ .reset :: q) →
    (t.blk.pst ≠ s.blk.pst →
      (s.blk.pst = .idle ∧ (∃ q, s.pending = .command 0x9000 :: q) ∧ t.tx = s.tx ++ [reqTable s.blk.idx]) ∨
      (s.blk.pst = .awaitingResponse ∧ t.blk.plast ≠ .none ∧
        ∃ q, s.pending = .command 0xA000 :: q ∨ s.pending = .command 0xB000 :: q)) ∧
    (t.blk.pst = s.blk.pst → t.tx = s.tx ∧ t.evt = s.evt ∧ t.blk.plast = s.blk.plast)

/-- Rule R106: the argument `PUBLISH_REQUIRES_CRC` decides events and nothing else: from two states that differ in it (and in
the events so far) a step leads to two such states; and where it is set, `PRSP` emits an event exactly when it would without
it and the frame verifies. -/
def Obligations.PublishArgumentGatesEventsOnly : Prop :=
  (∀ s t s' : State, s.SameButEvents t → step s = .next s' → ∃ t', step t = .next t' ∧ s'.SameButEvents t') ∧
  (∀ s t t' : State, s.cfg.publishRequiresCrc = false → exec .prsp s = .next t →
    exec .prsp { s with cfg.publishRequiresCrc := true } = .next t' →
    t'.evt = if verify s.frame = true then t.evt else s.evt)

/-- Rule R164: each request frame read back as a response verifies and does not decode, so `PRSP` on it advances the index
and emits no event. -/
def Obligations.EchoAdvancesWithoutAnEvent : Prop :=
  (∀ k : Fin 3, verify (reqTable k) = true ∧ decodeReading (reqTable k) = .error .unrecognizedPayloadLength) ∧
  (∀ (s : State) (k : Fin 3), s.Running → s.blk.pst = .awaitingResponse → s.frame = reqTable k →
    ∃ t, exec .prsp s = .next t ∧ t.blk.idx = s.blk.idx + 1 ∧ t.evt = s.evt ∧ t.blk.plast = .validated)

/-- Rules R105, R110, R114: a host that follows the procedure of rule R110 never faults and always reaches `Idle` again,
whatever bytes arrive or do not arrive; and after any number of such cycles the index has moved by the number of those
whose response, cut to `FRAME_MAX` bytes, verified, modulo 3. -/
def Obligations.PollCyclesCountVerifiedResponses : Prop :=
  ∀ (s : State) (rs : List (List Byte)), s.Running → s.blk.pst = .idle →
    ∃ t, execAll (rs.flatMap (pollCycleCommands s.cfg)) s = .next t ∧ t.Running ∧ t.blk.pst = .idle ∧
      t.blk.idx.val = (s.blk.idx.val + (rs.filter fun r => verify (r.take s.cfg.frameMax)).length) % 3 ∧
      t.tx.length = s.tx.length + rs.length

/-! ### The status port -/

/-- Rule R24: what a status read gives, register by register and field by field, and that it changes nothing of the block or
its outputs. The byte of `FBYTE[i]` for `i ≥ FLEN` is any value; its upper bits are zero. The rest of the next state is the
model's choice: the value joins the record `rd` and the host's action is done (log entries 5 and 2), and the counter
of the free byte advances (log entry 4). -/
def Obligations.StatusReadGivesTheRegister : Prop :=
  (∀ (s : State) (n : Nat) (q : List HostAct), s.pending = .readStatus n :: q →
    ∃ t v, step s = .next t ∧
      t = { s with rd := s.rd ++ [v], pending := q, freeCtr := t.freeCtr } ∧
      (n = 0 → v.extractLsb' 0 1 = bitOf s.blk.vok ∧ v.extractLsb' 1 2 = s.blk.rkind.bits ∧
        v.extractLsb' 3 2 = s.blk.derr.bits ∧ v.extractLsb' 5 2 = BitVec.ofNat 2 s.blk.idx.val ∧
        v.extractLsb' 7 1 = s.blk.pst.bits ∧ v.extractLsb' 8 2 = s.blk.plast.bits ∧
        v.extractLsb' 10 1 = bitOf s.blk.fault ∧ v.extractLsb' 11 3 = s.blk.fcause.bits ∧
        v.extractLsb' 14 18 = 0) ∧
      (n = 1 → v.extractLsb' 0 16 = s.blk.acc ∧ v.extractLsb' 16 16 = 0) ∧
      (n = 2 → v = s.blk.rval) ∧
      (n = 3 → v.extractLsb' 0 8 = BitVec.ofNat 8 s.blk.flen ∧ v.extractLsb' 8 24 = 0) ∧
      (∀ i, i < s.cfg.frameMax → n = 64 + i →
        (i < s.blk.flen → v.extractLsb' 0 8 = byteAt s.frame i) ∧ v.extractLsb' 8 24 = 0) ∧
      (4 ≤ n → (n < 64 ∨ 64 + s.cfg.frameMax ≤ n) → v = 0)) ∧
  (∀ any : Byte, statusRegister State.reset any 0 = 0x00000000 ∧ statusRegister State.reset any 1 = 0x0000FFFF ∧
    statusRegister State.reset any 2 = 0 ∧ statusRegister State.reset any 3 = 0)

/-- Rules R10, R14, R16, R19, R20: the codes of the status fields. -/
def Obligations.StatusFieldsHaveTheirCodes : Prop :=
  (Rkind.bits .none = 0 ∧ Rkind.bits .scaled16 = 1 ∧ Rkind.bits .int32 = 2) ∧
  (Derr.bits .ok = 0 ∧ Derr.bits .unsupportedFunction = 1 ∧ Derr.bits .unrecognizedPayloadLength = 2 ∧
    Derr.bits .frameTooShort = 3) ∧
  (Pst.bits .idle = 0 ∧ Pst.bits .awaitingResponse = 1) ∧
  (Plast.bits .none = 0 ∧ Plast.bits .validated = 1 ∧ Plast.bits .invalid = 2 ∧ Plast.bits .timeout = 3) ∧
  (∀ k : Rkind, k.bits ≠ 3) ∧ (∀ k : Fin 3, (idxBits k).toNat = k.val)

/-! ### Frames -/

/-- Rule R10 (the column "written by") and the "Flags written" line of every command's rule: an instruction leaves every
element unchanged that its rule does not name; none changes the parameters, the host's queue, or what was read, which are
the model's own fields (log entries 1, 2, 4 and 5). -/
def Obligations.InstructionsWriteOnlyWhatTheirRulesName : Prop :=
  ∀ (i : Instr) (s t : State) (e : Element), exec i s = .next t → e ∉ writes i → Agree s t e

/-- Rules R31, R36, R122: every cell of the frame buffer outside the cells an instruction stores to reads as before; only
`FPUSH` and `CAPP` store, at `FLEN`. -/
def Obligations.CellsOutsideTheStoreReadAsBefore : Prop :=
  ∀ (i : Instr) (s t : State) (a : Nat), exec i s = .next t → a ∉ storedCells i s →
    Memory.read t.blk.fb a = Memory.read s.blk.fb a

/-- Rule R35: `FCLR`, `CINIT`, `CGEN n`, `CVFY` and `FDEC` are idempotent: issued twice with nothing between, the second
changes nothing. -/
def Obligations.RepeatingAnIdempotentCommandChangesNothing : Prop :=
  ∀ (i : Instr) (s t : State), i = .fclr ∨ i = .cinit ∨ (∃ n, i = .cgen n) ∨ i = .cvfy ∨ i = .fdec →
    exec i s = .next t → exec i t = .next t

/-! ### Invariants and whole-machine rules -/

/-- The invariant holds right after reset. The canonical form of the frame buffer in it is the model's (log entry 3). -/
def Obligations.ResetStateIsSound : Prop :=
  State.reset.Inv

/-- Rules R8, R13, R15, R17, R22, R28, R36: every step keeps the invariant: the frame buffer's bound, `FLEN` at most
`FRAME_MAX`, every byte of the frame written, the decoder registers in agreement, a scaled reading of 16 bits, `FAULT` set
exactly with a cause, only rows of the request table transmitted. The canonical form of the frame buffer, which it keeps
too, is no rule's: it is the model's (log entry 3). -/
def Obligations.EveryStepKeepsTheStateSound : Prop :=
  ∀ s t : State, s.Inv → step s = .next t → t.Inv

/-- Rules R13, R28, R160: stale and unspecified bytes never reach a result: from two states that differ only in cells at or
above `FLEN`, a step leads to two such states, with the same outputs and the same values read from every register but `FBYTE[i]` for
`i ≥ FLEN`. That these reads agree too is the model's choice, not the spec's: it gives one unknown byte that depends on a
counter alone (log entry 4), where rules R24 and R160 allow any value, the stale byte among them. -/
def Obligations.StaleBytesNeverReachAResult : Prop :=
  ∀ s t s' : State, s.SameButStale t → step s = .next s' → ∃ t', step t = .next t' ∧ s'.SameButStale t'
end

