-- ==== Sys2Proof/Laws/State.lean ====
section
/-! SUPPORT. What each update of the state leaves in each field: one lemma per field per update, true by unfolding. A lemma
about `blk` gives the block whole, as the old one with the written elements replaced. -/

namespace Sys2Proof.Machine

variable (s : State)

/-! ### `State.append` -/

@[simp] theorem State.append_blk (b : Byte) : (s.append b).blk = { s.blk with fb := Memory.write s.blk.fb s.blk.flen b, flen := s.blk.flen + 1 } := rfl
@[simp] theorem State.append_cfg (b : Byte) : (s.append b).cfg = s.cfg := rfl
@[simp] theorem State.append_tx (b : Byte) : (s.append b).tx = s.tx := rfl
@[simp] theorem State.append_evt (b : Byte) : (s.append b).evt = s.evt := rfl
@[simp] theorem State.append_rd (b : Byte) : (s.append b).rd = s.rd := rfl
@[simp] theorem State.append_pending (b : Byte) : (s.append b).pending = s.pending := rfl
@[simp] theorem State.append_freeCtr (b : Byte) : (s.append b).freeCtr = s.freeCtr := rfl

/-! ### `State.faulted` -/

@[simp] theorem State.faulted_blk (c : Fcause) : (s.faulted c).blk = { s.blk with fault := true, fcause := c } := rfl
@[simp] theorem State.faulted_cfg (c : Fcause) : (s.faulted c).cfg = s.cfg := rfl
@[simp] theorem State.faulted_tx (c : Fcause) : (s.faulted c).tx = s.tx := rfl
@[simp] theorem State.faulted_evt (c : Fcause) : (s.faulted c).evt = s.evt := rfl
@[simp] theorem State.faulted_rd (c : Fcause) : (s.faulted c).rd = s.rd := rfl
@[simp] theorem State.faulted_pending (c : Fcause) : (s.faulted c).pending = s.pending := rfl
@[simp] theorem State.faulted_freeCtr (c : Fcause) : (s.faulted c).freeCtr = s.freeCtr := rfl

/-! ### `State.writeReading` -/

@[simp] theorem State.writeReading_blk (k : ReadingKind) (v : U32) : (s.writeReading k v).blk = { s.blk with rkind := k.rkind, rval := v, derr := .ok } := rfl
@[simp] theorem State.writeReading_cfg (k : ReadingKind) (v : U32) : (s.writeReading k v).cfg = s.cfg := rfl
@[simp] theorem State.writeReading_tx (k : ReadingKind) (v : U32) : (s.writeReading k v).tx = s.tx := rfl
@[simp] theorem State.writeReading_evt (k : ReadingKind) (v : U32) : (s.writeReading k v).evt = s.evt := rfl
@[simp] theorem State.writeReading_rd (k : ReadingKind) (v : U32) : (s.writeReading k v).rd = s.rd := rfl
@[simp] theorem State.writeReading_pending (k : ReadingKind) (v : U32) : (s.writeReading k v).pending = s.pending := rfl
@[simp] theorem State.writeReading_freeCtr (k : ReadingKind) (v : U32) : (s.writeReading k v).freeCtr = s.freeCtr := rfl

/-! ### `State.writeError` -/

@[simp] theorem State.writeError_blk (e : FrameError) : (s.writeError e).blk = { s.blk with rkind := .none, rval := 0, derr := derrOf e } := rfl
@[simp] theorem State.writeError_cfg (e : FrameError) : (s.writeError e).cfg = s.cfg := rfl
@[simp] theorem State.writeError_tx (e : FrameError) : (s.writeError e).tx = s.tx := rfl
@[simp] theorem State.writeError_evt (e : FrameError) : (s.writeError e).evt = s.evt := rfl
@[simp] theorem State.writeError_rd (e : FrameError) : (s.writeError e).rd = s.rd := rfl
@[simp] theorem State.writeError_pending (e : FrameError) : (s.writeError e).pending = s.pending := rfl
@[simp] theorem State.writeError_freeCtr (e : FrameError) : (s.writeError e).freeCtr = s.freeCtr := rfl

/-! ### `State.endTimeout` -/

@[simp] theorem State.endTimeout_blk : s.endTimeout.blk = { s.blk with plast := .timeout, pst := .idle } := rfl
@[simp] theorem State.endTimeout_cfg : s.endTimeout.cfg = s.cfg := rfl
@[simp] theorem State.endTimeout_tx : s.endTimeout.tx = s.tx := rfl
@[simp] theorem State.endTimeout_evt : s.endTimeout.evt = s.evt := rfl
@[simp] theorem State.endTimeout_rd : s.endTimeout.rd = s.rd := rfl
@[simp] theorem State.endTimeout_pending : s.endTimeout.pending = s.pending := rfl
@[simp] theorem State.endTimeout_freeCtr : s.endTimeout.freeCtr = s.freeCtr := rfl

/-! ### `State.emitTx` -/

@[simp] theorem State.emitTx_blk (f : List Byte) : (s.emitTx f).blk = s.blk := rfl
@[simp] theorem State.emitTx_cfg (f : List Byte) : (s.emitTx f).cfg = s.cfg := rfl
@[simp] theorem State.emitTx_tx (f : List Byte) : (s.emitTx f).tx = s.tx ++ [f] := rfl
@[simp] theorem State.emitTx_evt (f : List Byte) : (s.emitTx f).evt = s.evt := rfl
@[simp] theorem State.emitTx_rd (f : List Byte) : (s.emitTx f).rd = s.rd := rfl
@[simp] theorem State.emitTx_pending (f : List Byte) : (s.emitTx f).pending = s.pending := rfl
@[simp] theorem State.emitTx_freeCtr (f : List Byte) : (s.emitTx f).freeCtr = s.freeCtr := rfl

/-! ### `State.emitEvts` -/

@[simp] theorem State.emitEvts_blk (es : List Event) : (s.emitEvts es).blk = s.blk := rfl
@[simp] theorem State.emitEvts_cfg (es : List Event) : (s.emitEvts es).cfg = s.cfg := rfl
@[simp] theorem State.emitEvts_tx (es : List Event) : (s.emitEvts es).tx = s.tx := rfl
@[simp] theorem State.emitEvts_evt (es : List Event) : (s.emitEvts es).evt = s.evt ++ es := rfl
@[simp] theorem State.emitEvts_rd (es : List Event) : (s.emitEvts es).rd = s.rd := rfl
@[simp] theorem State.emitEvts_pending (es : List Event) : (s.emitEvts es).pending = s.pending := rfl
@[simp] theorem State.emitEvts_freeCtr (es : List Event) : (s.emitEvts es).freeCtr = s.freeCtr := rfl

/-! ### `State.pulseReset` -/

@[simp] theorem State.pulseReset_blk : s.pulseReset.blk = Block.reset := rfl
@[simp] theorem State.pulseReset_cfg : s.pulseReset.cfg = s.cfg := rfl
@[simp] theorem State.pulseReset_tx : s.pulseReset.tx = [] := rfl
@[simp] theorem State.pulseReset_evt : s.pulseReset.evt = [] := rfl
@[simp] theorem State.pulseReset_rd : s.pulseReset.rd = [] := rfl
@[simp] theorem State.pulseReset_pending : s.pulseReset.pending = s.pending := rfl
@[simp] theorem State.pulseReset_freeCtr : s.pulseReset.freeCtr = s.freeCtr := rfl

/-! ### Updates of a case each -/

theorem State.raise_of_running {s : State} (h : s.Running) (c : Fcause) : s.raise c = s.faulted c := by
  simp [State.raise, State.faulted, h]

theorem State.raise_of_fault {s : State} (h : s.blk.fault = true) (c : Fcause) : s.raise c = s := by
  simp [State.raise, h]

@[simp] theorem State.writeDecode_ok (k : ReadingKind) (v : U32) : s.writeDecode (.ok (k, v)) = s.writeReading k v := rfl

@[simp] theorem State.writeDecode_error (e : FrameError) : s.writeDecode (.error e) = s.writeError e := rfl

theorem State.endCycle_true :
    s.endCycle true = { s with blk.idx := nextIdx s.blk.idx, blk.plast := .validated, blk.pst := .idle } := rfl

theorem State.endCycle_false : s.endCycle false = { s with blk.plast := .invalid, blk.pst := .idle } := rfl

/-- A command of a running block does its work. -/
theorem whenRunning_of_running {s : State} (h : s.Running) (k : State → State) : whenRunning s k = .next (k s) := by
  simp [whenRunning, h]

/-- A command of a faulted block does nothing. -/
theorem whenRunning_of_fault {s : State} (h : s.blk.fault = true) (k : State → State) : whenRunning s k = .next s := by
  simp [whenRunning, h]

/-- All that a guarded command can do. -/
theorem whenRunning_cases {s t : State} {k : State → State} (h : whenRunning s k = .next t) :
    (s.blk.fault = true ∧ t = s) ∨ (s.Running ∧ t = k s) := by
  cases hf : s.blk.fault with
  | true => rw [whenRunning_of_fault hf] at h; exact .inl ⟨rfl, (Host.Outcome.next.inj h).symm⟩
  | false => rw [whenRunning_of_running hf] at h; exact .inr ⟨hf, (Host.Outcome.next.inj h).symm⟩

end Sys2Proof.Machine
end

