-- ==== Sys2Proof/Laws/Memory.lean ====
section
/-! SUPPORT. The frame buffer: a read after a write, the canonical form, and the frame as a list of bytes. -/

namespace Sys2Proof.Machine

/-! ### Reads after writes -/

@[simp] theorem Memory.lookup_write_same (m : Memory) (a : Nat) (b : Byte) :
    Memory.lookup (Memory.write m a b) a = some b := by
  induction m with
  | nil => simp [Memory.write, Memory.lookup]
  | cons c m ih =>
    obtain ⟨x, v⟩ := c
    simp only [Memory.write]
    split
    · simp [Memory.lookup]
    · split
      · simp [Memory.lookup]
      · have hne : x ≠ a := by omega
        simp [Memory.lookup, hne, ih]

theorem Memory.lookup_write_other (m : Memory) {a a' : Nat} (b : Byte) (h : a' ≠ a) :
    Memory.lookup (Memory.write m a b) a' = Memory.lookup m a' := by
  induction m with
  | nil => simp [Memory.write, Memory.lookup, h.symm]
  | cons c m ih =>
    obtain ⟨x, v⟩ := c
    simp only [Memory.write]
    split
    · simp [Memory.lookup, h.symm]
    · split
      · subst a; simp [Memory.lookup, h.symm]
      · simp [Memory.lookup, ih]

@[simp] theorem Memory.read_write_same (m : Memory) (a : Nat) (b : Byte) : Memory.read (Memory.write m a b) a = b := by
  simp [Memory.read]

theorem Memory.read_write_other (m : Memory) {a a' : Nat} (b : Byte) (h : a' ≠ a) :
    Memory.read (Memory.write m a b) a' = Memory.read m a' := by
  simp [Memory.read, Memory.lookup_write_other m b h]

/-! ### The canonical form -/

theorem Memory.wf_of_risingFrom {lo : Nat} {m : Memory} (h : Memory.risingFrom lo m = true) : Memory.wf m = true := by
  cases m with
  | nil => rfl
  | cons c m => simp_all [Memory.risingFrom, Memory.wf]

theorem Memory.risingFrom_write {lo : Nat} {m : Memory} {a : Nat} (b : Byte) (ha : lo < a)
    (h : Memory.risingFrom lo m = true) : Memory.risingFrom lo (Memory.write m a b) = true := by
  induction m generalizing lo with
  | nil => simpa [Memory.write, Memory.risingFrom] using ha
  | cons c m ih =>
    obtain ⟨x, v⟩ := c
    simp only [Memory.risingFrom, Bool.and_eq_true, decide_eq_true_eq] at h
    simp only [Memory.write]
    split
    · simp_all [Memory.risingFrom]
    · split
      · subst a; simp_all [Memory.risingFrom]
      · have hxa : x < a := by omega
        simp [Memory.risingFrom, h.1, ih hxa h.2]

/-- A write keeps the canonical form. -/
theorem Memory.wf_write {m : Memory} (h : Memory.wf m = true) (a : Nat) (b : Byte) :
    Memory.wf (Memory.write m a b) = true := by
  cases m with
  | nil => rfl
  | cons c m =>
    obtain ⟨x, v⟩ := c
    simp only [Memory.wf] at h
    simp only [Memory.write]
    split
    · simp_all [Memory.wf, Memory.risingFrom]
    · split
      · subst a; simpa [Memory.wf] using h
      · have hxa : x < a := by omega
        simpa [Memory.wf] using Memory.risingFrom_write b hxa h

/-- A write lists no cell but the one written and those listed before. -/
theorem Memory.mem_write {m : Memory} {a : Nat} {b : Byte} {c : Host.Cell} (h : c ∈ Memory.write m a b) :
    c = (a, b) ∨ c ∈ m := by
  induction m with
  | nil => simpa [Memory.write] using h
  | cons d m ih =>
    obtain ⟨x, v⟩ := d
    simp only [Memory.write] at h
    split at h
    · simpa using h
    · split at h
      · simp only [List.mem_cons] at h ⊢; tauto
      · simp only [List.mem_cons] at h ⊢
        rcases h with h | h
        · exact .inr (.inl h)
        · rcases ih h with h | h
          · exact .inl h
          · exact .inr (.inr h)

/-! ### Bytes in a row -/

@[simp] theorem Memory.bytes_length (m : Memory) (a n : Nat) : (Memory.bytes m a n).length = n := by
  induction n generalizing a with
  | zero => rfl
  | succ n ih => simp [Memory.bytes, ih]

theorem Memory.bytes_getElem (m : Memory) (a n i : Nat) (h : i < (Memory.bytes m a n).length) :
    (Memory.bytes m a n)[i] = Memory.read m (a + i) := by
  induction n generalizing a i with
  | zero => simp at h
  | succ n ih =>
    cases i with
    | zero => rfl
    | succ i =>
      have h' : i < (Memory.bytes m (a + 1) n).length := by simpa using h
      simpa [Memory.bytes, Nat.add_assoc, Nat.add_comm 1] using ih (a + 1) i h'

/-- Two memories that read alike give the same bytes. -/
theorem Memory.bytes_congr {m m' : Memory} {a n : Nat}
    (h : ∀ i, a ≤ i → i < a + n → Memory.read m' i = Memory.read m i) : Memory.bytes m' a n = Memory.bytes m a n := by
  induction n generalizing a with
  | zero => rfl
  | succ n ih =>
    simp only [Memory.bytes]
    rw [h a (by omega) (by omega), ih fun i h1 h2 => h i (by omega) (by omega)]

theorem Memory.bytes_succ (m : Memory) (a n : Nat) :
    Memory.bytes m a (n + 1) = Memory.bytes m a n ++ [Memory.read m (a + n)] := by
  induction n generalizing a with
  | zero => rfl
  | succ n ih =>
    rw [Memory.bytes, ih (a + 1)]
    simp [Memory.bytes, Nat.add_comm 1, Nat.add_assoc]

theorem Memory.bytes_take (m : Memory) (a n k : Nat) (h : k ≤ n) :
    (Memory.bytes m a n).take k = Memory.bytes m a k := by
  induction n generalizing a k with
  | zero => simp [Nat.le_zero.mp h, Memory.bytes]
  | succ n ih =>
    cases k with
    | zero => rfl
    | succ k => simp [Memory.bytes, ih (a + 1) k (by omega)]

/-! ### The frame -/

@[simp] theorem State.frame_length (s : State) : s.frame.length = s.blk.flen := by simp [State.frame, State.frameTake]

@[simp] theorem State.frameTake_length (s : State) (n : Nat) : (s.frameTake n).length = n := by simp [State.frameTake]

theorem State.frame_take (s : State) {n : Nat} (h : n ≤ s.blk.flen) : s.frame.take n = s.frameTake n :=
  Memory.bytes_take _ _ _ _ h

theorem State.byteAt_frame (s : State) {i : Nat} (h : i < s.blk.flen) : byteAt s.frame i = Memory.read s.blk.fb i := by
  have h' : i < s.frame.length := by simpa using h
  rw [byteAt, List.getD_eq_getElem _ _ h']
  have e := Memory.bytes_getElem s.blk.fb 0 s.blk.flen i h'
  rw [Nat.zero_add] at e
  exact e

/-- Appending a byte to the buffer appends it to the frame. -/
@[simp] theorem State.frame_append (s : State) (b : Byte) : (s.append b).frame = s.frame ++ [b] := by
  simp only [State.frame, State.frameTake, State.append_blk, Memory.bytes_succ, Nat.zero_add, Memory.read_write_same]
  congr 1
  exact Memory.bytes_congr fun i _ hi => Memory.read_write_other _ _ (by omega)

/-- An append changes no byte but the one at `FLEN`. -/
theorem State.read_append_other (s : State) (b : Byte) {a : Nat} (h : a ≠ s.blk.flen) :
    Memory.read (s.append b).blk.fb a = Memory.read s.blk.fb a := Memory.read_write_other _ _ h

end Sys2Proof.Machine
end

