-- ==== Sys2Proof/Laws/Crc.lean ====
section
/-! SUPPORT. Unit C's functions: folding over lists, the low byte leaving the accumulator, and `verify` on the buffer. -/

namespace Sys2Proof.Machine

/-! ### The fold -/

@[simp] theorem crcFold_nil (a : U16) : crcFold a [] = a := rfl

@[simp] theorem crcFold_cons (a : U16) (b : Byte) (bs : List Byte) : crcFold a (b :: bs) = crcFold (crcByte a b) bs := rfl

theorem crcFold_append (a : U16) (xs ys : List Byte) : crcFold a (xs ++ ys) = crcFold (crcFold a xs) ys :=
  List.foldl_append

theorem crc16_append (xs ys : List Byte) : crc16 (xs ++ ys) = crcFold (crc16 xs) ys := crcFold_append _ _ _

/-! ### Bit steps -/

theorem crcBit_of_even {a : U16} (h : a.getLsbD 0 = false) : crcBit a = a >>> 1 := by
  rw [crcBit, if_neg (by rw [h]; simp)]

theorem crcBit_of_odd {a : U16} (h : a.getLsbD 0 = true) : crcBit a = (a >>> 1) ^^^ crcPoly := by
  rw [crcBit, if_pos h]

/-- Bits whose shifts all push out a 0 only move down. -/
theorem crcBits_of_low_zero (n : Nat) (a : U16) (h : ∀ i < n, a.getLsbD i = false) : crcBits n a = a >>> n := by
  induction n generalizing a with
  | zero => simp [crcBits]
  | succ n ih =>
    rw [crcBits, crcBit_of_even (h 0 (by omega)), ih (a >>> 1)]
    · rw [← BitVec.shiftRight_add, Nat.add_comm]
    · intro i hi
      rw [BitVec.getLsbD_ushiftRight]
      exact h (1 + i) (by omega)

/-! ### The trailer leaves nothing behind -/

/-- Folding in the accumulator's own low byte leaves its high byte, in the low place. -/
theorem crcByte_lowByte (a : U16) : crcByte a (lowByte a) = zext16 (highByte a) := by
  have hlow : ∀ i < 8, (a ^^^ zext16 (lowByte a)).getLsbD i = false := by
    intro i hi
    have h1 : i < 16 := by omega
    simp [zext16, lowByte, hi, h1]
  rw [crcByte, crcBits_of_low_zero 8 _ hlow]
  ext i hi
  simp [zext16, lowByte, highByte]
  grind

/-- Folding in an accumulator that is one zero-extended byte leaves zero. -/
theorem crcByte_self (b : Byte) : crcByte (zext16 b) b = 0 := by
  rw [crcByte, BitVec.xor_self]
  decide

theorem crcFold_trailerBytes (a : U16) : crcFold a (trailerBytes a) = 0 := by
  simp only [trailerBytes, crcFold_cons, crcFold_nil, crcByte_lowByte, crcByte_self]

/-! ### The validator on the buffer -/

theorem trailerValue_trailerBytes (c : U16) : trailerValue (lowByte c) (highByte c) = c := by
  ext i hi
  simp [trailerValue, cat16, lowByte, highByte]
  grind

/-- `VERIFY_MIN` as a number. -/
@[simp] theorem verifyMin_eq : verifyMin = 5 := rfl

theorem verify_of_short {f : List Byte} (h : f.length < 5) : verify f = false := by
  rw [verify, verifyMin_eq, if_pos h]

/-- On a frame of 5 bytes or more, `verify` compares the CRC of all but the last two bytes with those two. -/
theorem verify_append_two (bs : List Byte) (lo hi : Byte) (h : 3 ≤ bs.length) :
    verify (bs ++ [lo, hi]) = (crc16 bs == trailerValue lo hi) := by
  have hlen : ¬ (bs ++ [lo, hi]).length < verifyMin := by simp [verifyMin]; omega
  have h2 : (bs ++ [lo, hi]).length - 2 = bs.length := by simp
  have h1 : (bs ++ [lo, hi]).length - 1 = bs.length + 1 := by simp
  have e2 : byteAt (bs ++ [lo, hi]) bs.length = lo := by simp [byteAt]
  have e1 : byteAt (bs ++ [lo, hi]) (bs.length + 1) = hi := by simp [byteAt]
  rw [verify, if_neg hlen, h2, h1, e1, e2, List.take_left' rfl, trailerValue]

/-- The writes of `CVFY` as the validator of rule R69 gives them. -/
theorem State.writeVerify_eq (s : State) : s.writeVerify =
    if s.blk.flen < 5 then { s with blk.vok := verify s.frame }
    else { s with blk.acc := crc16 (s.frameTake (s.blk.flen - 2)), blk.vok := verify s.frame } := by
  by_cases h : s.blk.flen < 5
  · have hv : verify s.frame = false := verify_of_short (by simpa using h)
    rw [if_pos h, State.writeVerify, verifyMin_eq, if_pos h, hv]
  · rw [if_neg h, State.writeVerify, verifyMin_eq, if_neg h]
    have hlen : ¬ s.frame.length < verifyMin := by simpa [verifyMin] using h
    have hv : verify s.frame = (crc16 (s.frameTake (s.blk.flen - 2)) ==
        cat16 (Memory.read s.blk.fb (s.blk.flen - 1)) (Memory.read s.blk.fb (s.blk.flen - 2))) := by
      rw [verify, if_neg hlen, State.frame_length, State.frame_take s (by omega),
        State.byteAt_frame s (by omega), State.byteAt_frame s (by omega)]
    rw [hv]

@[simp] theorem State.writeVerify_vok (s : State) : s.writeVerify.blk.vok = verify s.frame := by
  rw [State.writeVerify_eq]; split <;> rfl

@[simp] theorem State.writeVerify_acc (s : State) : s.writeVerify.blk.acc =
    if s.blk.flen < 5 then s.blk.acc else crc16 (s.frameTake (s.blk.flen - 2)) := by
  rw [State.writeVerify_eq]; split <;> rfl

/-- All that the writes of `CVFY` can change. -/
theorem State.writeVerify_frame (s : State) :
    s.writeVerify = { s with blk.acc := s.writeVerify.blk.acc, blk.vok := s.writeVerify.blk.vok } := by
  rw [State.writeVerify_eq]; split <;> rfl

end Sys2Proof.Machine
end

