-- ==== Sys2Proof/Laws/Decode.lean ====
section
/-! SUPPORT. The fields of a command word, the two decoders, and the function `decode` of rule R85. -/

namespace Sys2Proof

/-! ### The fields of a word -/

@[simp] theorem opField_cmdWord (op : BitVec 4) (imm : Byte) : opField (cmdWord op imm) = op := by
  ext i hi; simp [opField, cmdWord]; grind

@[simp] theorem rsvField_cmdWord (op : BitVec 4) (imm : Byte) : rsvField (cmdWord op imm) = 0 := by
  ext i hi; simp [rsvField, cmdWord]; grind

@[simp] theorem immField_cmdWord (op : BitVec 4) (imm : Byte) : immField (cmdWord op imm) = imm := by
  ext i hi; simp [immField, cmdWord]; grind

/-- A word with `rsv` zero is made of its other two fields. -/
theorem cmdWord_fields {w : U16} (h : rsvField w = 0) : cmdWord (opField w) (immField w) = w := by
  have h' : ∀ j (_ : j < 4), w.getLsbD (8 + j) = false := by
    intro j hj
    have := congrArg (fun v => v.getLsbD j) h
    simpa [rsvField, hj] using this
  ext i hi
  simp [cmdWord, opField, immField]
  grind

/-! ### The word decoder -/

theorem decodeWord_cmdWord (op : BitVec 4) (imm : Byte) : decodeWord (cmdWord op imm) = decodeOp op.toNat imm := by
  simp [decodeWord]

theorem decodeWord_of_rsv {w : U16} (h : rsvField w ≠ 0) : decodeWord w = .error .reservedBits := by
  rw [decodeWord, if_neg h]

/-- A word that decodes has `rsv` zero, and its other two fields say what it is. -/
theorem decodeWord_ok {w : U16} {i : Instr} (h : decodeWord w = .ok i) :
    rsvField w = 0 ∧ decodeOp (opField w).toNat (immField w) = .ok i := by
  by_cases hr : rsvField w = 0
  · exact ⟨hr, by simpa [decodeWord, hr] using h⟩
  · simp [decodeWord_of_rsv hr] at h

theorem noOperand_ok {imm : Byte} {i j : Instr} (h : noOperand imm i = .ok j) : imm = 0 ∧ j = i := by
  unfold noOperand at h
  split at h
  · exact ⟨‹_›, (Except.ok.inj h).symm⟩
  · cases h

/-! ### The frame decoder, form by form -/

@[simp] theorem decodeFrame_rd16 (addr d0 d1 : Byte) (rest : List Byte) :
    decodeFrame (addr :: funcRead :: bc16 :: d0 :: d1 :: rest) = .ok (.rd16 addr d0 d1 rest) := by
  simp [decodeFrame, decodeData]

@[simp] theorem decodeFrame_rd32 (addr d0 d1 d2 d3 : Byte) (rest : List Byte) :
    decodeFrame (addr :: funcRead :: bc32 :: d0 :: d1 :: d2 :: d3 :: rest) = .ok (.rd32 addr d0 d1 d2 d3 rest) := by
  have : ¬ bc32 = bc16 := by decide
  simp [decodeFrame, decodeData, this]

namespace Machine

/-- The function `decode` of rule R85 with its constants as numbers. -/
theorem decodeReading_eq (f : List Byte) : decodeReading f =
    if f.length < 2 then .error .unsupportedFunction
    else if byteAt f 1 ≠ 0x03 then .error .unsupportedFunction
    else if f.length < 3 then .error .frameTooShort
    else if byteAt f 2 = 0x02 then
      if f.length < 5 then .error .frameTooShort
      else .ok (.scaled16, zext32 (cat16 (byteAt f 3) (byteAt f 4)))
    else if byteAt f 2 = 0x04 then
      if f.length < 7 then .error .frameTooShort
      else .ok (.int32, cat32 (cat16 (byteAt f 3) (byteAt f 4)) (cat16 (byteAt f 5) (byteAt f 6)))
    else .error .unrecognizedPayloadLength := rfl

/-- What a recognised form says to the decoder of rule R85. -/
def formReading : Instr → Option Reading
  | .rd16 _ d0 d1 _ => some (.scaled16, zext32 (cat16 d0 d1))
  | .rd32 _ d0 d1 d2 d3 _ => some (.int32, cat32 (cat16 d0 d1) (cat16 d2 d3))
  | _ => none

/-- The function `decode` of rule R85 and the decoder of the forms agree: on what they reject and by which name, and on
what a recognised form means. -/
theorem decodeReading_cases (f : List Byte) :
    (∃ e, decodeFrame f = .error e ∧ decodeReading f = .error e) ∨
    (∃ i r, decodeFrame f = .ok i ∧ formReading i = some r ∧ decodeReading f = .ok r) := by
  match f with
  | [] => exact .inl ⟨_, rfl, rfl⟩
  | [_] => exact .inl ⟨_, rfl, rfl⟩
  | [_, fn] =>
    by_cases h : fn = funcRead
    · exact .inl ⟨.frameTooShort, by simp [decodeFrame, h], by simp [decodeReading, byteAt, h]⟩
    · exact .inl ⟨.unsupportedFunction, by simp [decodeFrame, h], by simp [decodeReading, byteAt, h]⟩
  | addr :: fn :: bc :: data =>
    by_cases h : fn = funcRead
    · by_cases h16 : bc = bc16
      · subst h h16
        match data with
        | [] => exact .inl ⟨_, rfl, rfl⟩
        | [_] => exact .inl ⟨_, rfl, rfl⟩
        | d0 :: d1 :: rest =>
          have h3 : ¬ rest.length + 1 + 1 + 1 + 1 + 1 < 3 := by omega
          have h5 : ¬ rest.length + 1 + 1 + 1 + 1 + 1 < 5 := by omega
          exact .inr ⟨_, _, decodeFrame_rd16 _ _ _ _, rfl, by simp [decodeReading, byteAt, minLen16, h3, h5]⟩
      · by_cases h32 : bc = bc32
        · subst h h32
          match data with
          | [] => exact .inl ⟨_, rfl, rfl⟩
          | [_] => exact .inl ⟨_, rfl, rfl⟩
          | [_, _] => exact .inl ⟨_, rfl, rfl⟩
          | [_, _, _] => exact .inl ⟨_, rfl, rfl⟩
          | d0 :: d1 :: d2 :: d3 :: rest =>
            have h3 : ¬ rest.length + 1 + 1 + 1 + 1 + 1 + 1 + 1 < 3 := by omega
            have h7 : ¬ rest.length + 1 + 1 + 1 + 1 + 1 + 1 + 1 < 7 := by omega
            exact .inr ⟨_, _, decodeFrame_rd32 _ _ _ _ _ _, rfl, by simp [decodeReading, byteAt, minLen32, h16, h3, h7]⟩
        · exact .inl ⟨.unrecognizedPayloadLength, by simp [decodeFrame, decodeData, h, h16, h32],
            by simp [decodeReading, byteAt, h, h16, h32]⟩
    · exact .inl ⟨.unsupportedFunction, by simp [decodeFrame, h], by simp [decodeReading, byteAt, h]⟩

end Machine

end Sys2Proof
end

