-- ==== Sys2Proof/Laws/Exec.lean ====
section
/-! SUPPORT. What an instruction does, in one equation for all of them, and what none of them touches. -/

namespace Sys2Proof.Machine

/-- The work of an instruction on a running block. -/
def work (i : Instr) (s : State) : State :=
  match i with
  | .fclr => { s with blk.flen := 0 }
  | .fpush b => if s.blk.flen = s.cfg.frameMax then s.raise .bufOverflow else s.append b
  | .cinit => { s with blk.acc := crcInit }
  | .cupd b => { s with blk.acc := crcByte s.blk.acc b }
  | .cgen n =>
    if s.blk.flen < byteCount n then s.raise .range
    else { s with blk.acc := crc16 (s.frameTake (byteCount n)) }
  | .capp =>
    if s.cfg.frameMax < s.blk.flen + 2 then s.raise .bufOverflow
    else { (s.append (lowByte (crc16 s.frame))).append (highByte (crc16 s.frame)) with blk.acc := crc16 s.frame }
  | .cvfy => s.writeVerify
  | .fdec => s.writeDecode (decodeReading s.frame)
  | .preq =>
    if s.blk.pst ≠ .idle then s.raise .sequence
    else { s.emitTx (reqTable s.blk.idx) with blk.pst := .awaitingResponse }
  | .prsp =>
    if s.blk.pst ≠ .awaitingResponse then s.raise .sequence
    else if s.blk.flen = 0 then s.endTimeout
    else s.processResponse
  | .ptmo => if s.blk.pst ≠ .awaitingResponse then s.raise .sequence else s.endTimeout
  | .rd16 _ d0 d1 _ => s.writeReading .scaled16 (zext32 (cat16 d0 d1))
  | .rd32 _ d0 d1 d2 d3 _ => s.writeReading .int32 (cat32 (cat16 d0 d1) (cat16 d2 d3))

/-- Every instruction does its work on a running block and nothing on a faulted one. -/
theorem exec_eq_whenRunning (i : Instr) (s : State) : exec i s = whenRunning s (work i) := by
  cases i <;> rfl

/-- All that an instruction can do when it answers a next state. -/
theorem exec_cases {i : Instr} {s t : State} (h : exec i s = .next t) :
    (s.blk.fault = true ∧ t = s) ∨ (s.Running ∧ t = work i s) :=
  whenRunning_cases (exec_eq_whenRunning i s ▸ h)

theorem exec_of_running {s : State} (h : s.Running) (i : Instr) : exec i s = .next (work i s) := by
  rw [exec_eq_whenRunning, whenRunning_of_running h]

/-! ### What the parts of `PRSP` leave -/

/-- All that a decode writes: the three decoder registers. -/
theorem State.writeDecode_frame (s : State) (r : Except FrameError Reading) : s.writeDecode r =
    { s with
      blk.rkind := (s.writeDecode r).blk.rkind
      blk.rval := (s.writeDecode r).blk.rval
      blk.derr := (s.writeDecode r).blk.derr } := by
  cases r <;> rfl

/-- The end of a cycle writes `IDX`, `PLAST` and `PST`. -/
theorem State.endCycle_frame (s : State) (v : Bool) : s.endCycle v =
    { s with
      blk.idx := if v then nextIdx s.blk.idx else s.blk.idx
      blk.plast := if v then .validated else .invalid
      blk.pst := .idle } := by
  cases v <;> rfl

/-- The cycle of a response that is not empty, element by element. -/
theorem State.processResponse_eq (s : State) : s.processResponse =
    { s with
      evt := s.evt ++ published s.cfg s.blk.idx (decodeReading s.frame) (verify s.frame)
      blk.rkind := (s.writeDecode (decodeReading s.frame)).blk.rkind
      blk.rval := (s.writeDecode (decodeReading s.frame)).blk.rval
      blk.derr := (s.writeDecode (decodeReading s.frame)).blk.derr
      blk.acc := if s.blk.flen < 5 then s.blk.acc else crc16 (s.frameTake (s.blk.flen - 2))
      blk.vok := verify s.frame
      blk.idx := if verify s.frame then nextIdx s.blk.idx else s.blk.idx
      blk.plast := if verify s.frame then .validated else .invalid
      blk.pst := .idle } := by
  have key (r : Except FrameError Reading) (v : Bool) : (((s.writeDecode r).publish r v).writeVerify).endCycle v =
      { s with
        evt := s.evt ++ published s.cfg s.blk.idx r v
        blk.rkind := (s.writeDecode r).blk.rkind
        blk.rval := (s.writeDecode r).blk.rval
        blk.derr := (s.writeDecode r).blk.derr
        blk.acc := if s.blk.flen < 5 then s.blk.acc else crc16 (s.frameTake (s.blk.flen - 2))
        blk.vok := verify s.frame
        blk.idx := if v then nextIdx s.blk.idx else s.blk.idx
        blk.plast := if v then .validated else .invalid
        blk.pst := .idle } := by
    rw [State.endCycle_frame, State.writeVerify_frame, State.writeVerify_acc, State.writeVerify_vok, State.publish]
    cases r <;> rfl
  exact key _ _

end Sys2Proof.Machine
end

