-- ==== Sys2Proof/Laws/PerInstr.lean ====
section
/-! SUPPORT. Facts about each instruction as syntax, one lemma for each constructor. -/

namespace Sys2Proof.Laws.RowMatch

/-- What an instruction encodes to matches its row of spec/opcode_table.json: under the row's mask, the code's number is the
row's value; and a 16-bit row is a command word, a 24-bit row a frame. -/
def Statement (i : Instr) : Prop :=
  (encode i).tableNumber &&& i.row.mask = i.row.value ∧
    match encode i with
    | .word _ => i.row.width = 16
    | .frame _ => i.row.width = 24

theorem fclr : Statement .fclr := ⟨by decide, rfl⟩

theorem fpush (b : Byte) : Statement (.fpush b) := ⟨by revert b; decide, rfl⟩

theorem cinit : Statement .cinit := ⟨by decide, rfl⟩

theorem cupd (b : Byte) : Statement (.cupd b) := ⟨by revert b; decide, rfl⟩

theorem cgen (n : Byte) : Statement (.cgen n) := ⟨by revert n; decide, rfl⟩

theorem capp : Statement .capp := ⟨by decide, rfl⟩

theorem cvfy : Statement .cvfy := ⟨by decide, rfl⟩

theorem fdec : Statement .fdec := ⟨by decide, rfl⟩

theorem preq : Statement .preq := ⟨by decide, rfl⟩

theorem prsp : Statement .prsp := ⟨by decide, rfl⟩

theorem ptmo : Statement .ptmo := ⟨by decide, rfl⟩

/-- The address byte lies above the mask. -/
theorem headMask (a k : Nat) (h : k < 65536) : (a * 65536 + k) &&& 0x00FFFF = k := by
  have := Nat.and_two_pow_sub_one_eq_mod (a * 65536 + k) 16
  norm_num at this
  rw [this]
  omega

theorem rd16 (addr d0 d1 : Byte) (rest : List Byte) : Statement (.rd16 addr d0 d1 rest) := by
  have e : (encode (.rd16 addr d0 d1 rest)).tableNumber = addr.toNat * 65536 + 0x0302 := by
    simp [encode, Code.tableNumber, funcRead, bc16]
  exact ⟨by rw [e]; exact headMask _ _ (by omega), rfl⟩

theorem rd32 (addr d0 d1 d2 d3 : Byte) (rest : List Byte) : Statement (.rd32 addr d0 d1 d2 d3 rest) := by
  have e : (encode (.rd32 addr d0 d1 d2 d3 rest)).tableNumber = addr.toNat * 65536 + 0x0304 := by
    simp [encode, Code.tableNumber, funcRead, bc32]
  exact ⟨by rw [e]; exact headMask _ _ (by omega), rfl⟩

end Sys2Proof.Laws.RowMatch
end

