-- ==== Sys2Proof/Laws/Step.lean ====
section
/-! SUPPORT. The step, split by what the host does, and a command word, split by what it decodes to. -/

namespace Sys2Proof.Machine

/-- A step carries out the first thing the host does. -/
theorem step_cons {s : State} {a : HostAct} {q : List HostAct} (h : s.pending = a :: q) :
    step s = runAct a { s with pending := q } := by
  simp [step, h]

theorem step_nil {s : State} (h : s.pending = []) : step s = .next s := by
  simp [step, h]

/-- Presenting a word runs it on the state as it was. -/
theorem step_present (s : State) (w : U16) : step (s.present w) = runWord w s := rfl

theorem decodeWord_cases (w : U16) : (∃ e, decodeWord w = .error e) ∨ ∃ i, decodeWord w = .ok i := by
  cases h : decodeWord w with
  | error e => exact .inl ⟨e, rfl⟩
  | ok i => exact .inr ⟨i, rfl⟩

theorem runWord_ok {w : U16} {i : Instr} (h : decodeWord w = .ok i) (s : State) : runWord w s = exec i s := by
  simp [runWord, h]

theorem runWord_error {w : U16} {e : IllegalWord} (h : decodeWord w = .error e) (s : State) :
    runWord w s = .next (s.raise .illegalCmd) := by
  simp [runWord, h]

/-- All that a word can do. -/
theorem runWord_cases {w : U16} {s t : State} (h : runWord w s = .next t) :
    (s.blk.fault = true ∧ t = s) ∨
    (s.Running ∧ (∃ e, decodeWord w = .error e) ∧ t = s.faulted .illegalCmd) ∨
    (s.Running ∧ ∃ i, decodeWord w = .ok i ∧ t = work i s) := by
  rcases decodeWord_cases w with ⟨e, he⟩ | ⟨i, hi⟩
  · rw [runWord_error he] at h
    have ht := (Host.Outcome.next.inj h).symm
    cases hf : s.blk.fault with
    | true => exact .inl ⟨rfl, by rw [ht, State.raise_of_fault hf]⟩
    | false => exact .inr (.inl ⟨hf, ⟨e, he⟩, by rw [ht, State.raise_of_running hf]⟩)
  · rw [runWord_ok hi] at h
    rcases exec_cases h with hc | hc
    · exact .inl hc
    · exact .inr (.inr ⟨hc.1, i, hi, hc.2⟩)

/-- All that a step can do. -/
theorem step_cases {s t : State} (h : step s = .next t) :
    (s.pending = [] ∧ t = s) ∨
    (∃ q, s.pending = .reset :: q ∧ t = State.pulseReset { s with pending := q }) ∨
    (∃ n q, s.pending = .readStatus n :: q ∧ t = { s with
      rd := s.rd ++ [statusRegister s (Config.anyByte s.freeCtr) n], freeCtr := s.freeCtr + 1, pending := q }) ∨
    (∃ w q, s.pending = .command w :: q ∧ runWord w { s with pending := q } = .next t) := by
  cases hp : s.pending with
  | nil => rw [step_nil hp] at h; exact .inl ⟨rfl, (Host.Outcome.next.inj h).symm⟩
  | cons a q =>
    rw [step_cons hp] at h
    cases a with
    | reset => exact .inr (.inl ⟨q, rfl, (Host.Outcome.next.inj h).symm⟩)
    | readStatus n => exact .inr (.inr (.inl ⟨n, q, rfl, (Host.Outcome.next.inj h).symm⟩))
    | command w => exact .inr (.inr (.inr ⟨w, q, rfl, h⟩))

/-- The frame of a state is that of its buffer and length. -/
theorem State.frame_congr {s t : State} (hfb : t.blk.fb = s.blk.fb) (hlen : t.blk.flen = s.blk.flen) :
    t.frame = s.frame := by
  simp [State.frame, State.frameTake, hfb, hlen]

end Sys2Proof.Machine
end

