-- ==== Sys2Proof/Tests/Slice0.lean ====
section
/-! SUPPORT. Our own tests: the checks of WellFormed on ill-formed terms, words written out from the spec's encodings, single
steps with the results of spec/95_test_vectors.md, and for each statement with hypotheses a state that meets them. -/

namespace Sys2Proof.Tests

set_option Elab.async false -- one theorem at a time: a thread for each of them is more than the sandbox starts

open Sys2Proof.Machine

/-! ### Small states -/

/-- Reset, with a frame in the buffer. -/
def holding (f : List Byte) : State := State.reset.loadFrame f

/-- Reset, with a frame in the buffer and a response awaited, at index `k`. -/
def awaiting (k : Fin 3) (f : List Byte) : State := { holding f with blk.pst := .awaitingResponse, blk.idx := k }

/-- Reset with the smallest buffer, full by its length. -/
def full9 : State := { State.reset with cfg := ⟨⟨9, by decide⟩, false⟩, blk.flen := 9 }

/-- A block that faulted. -/
def dead : State := State.reset.faulted .range

/-- The block an instruction leaves. -/
def blockOf (o : Out) : Block :=
  match o with
  | .next t => t.blk
  | .fault _ => Block.reset
  | .refused _ => Block.reset

/-- The state an instruction leaves. -/
def stateOf (o : Out) : State :=
  match o with
  | .next t => t
  | .fault _ => State.reset
  | .refused _ => State.reset

/-- Whether a step answers a next state. -/
def isNext (o : Out) : Bool :=
  match o with
  | .next _ => true
  | .fault _ => false
  | .refused _ => false

/-! ### WellFormed: one ill-formed term for each check -/

theorem test_wf_refuses_long_rd16 :
    Instr.wf ⟨⟨9, by decide⟩, false⟩ (.rd16 1 0 0 [0, 0, 0, 0, 0]) = false := by decide

theorem test_wf_refuses_long_rd32 : Instr.wf ⟨⟨9, by decide⟩, false⟩ (.rd32 1 0 0 0 0 [0, 0, 0]) = false := by decide

theorem test_wf_takes_longest_rd32 : Instr.wf ⟨⟨9, by decide⟩, false⟩ (.rd32 1 0 0 0 0 [0, 0]) = true := by decide

/-! ### Decoding: words and frames of spec/95_test_vectors.md sections 2.4 and 2.5 -/

theorem test_decode_fclr : decodeWord 0x1000 = .ok .fclr := by decide
theorem test_decode_fpush : decodeWord 0x202A = .ok (.fpush 0x2A) := by decide
theorem test_decode_cinit : decodeWord 0x3000 = .ok .cinit := by decide
theorem test_decode_cupd : decodeWord 0x4031 = .ok (.cupd 0x31) := by decide
theorem test_decode_cgen : decodeWord 0x5006 = .ok (.cgen 6) := by decide
theorem test_decode_capp : decodeWord 0x6000 = .ok .capp := by decide
theorem test_decode_cvfy : decodeWord 0x7000 = .ok .cvfy := by decide
theorem test_decode_fdec : decodeWord 0x8000 = .ok .fdec := by decide
theorem test_decode_preq : decodeWord 0x9000 = .ok .preq := by decide
theorem test_decode_prsp : decodeWord 0xA000 = .ok .prsp := by decide
theorem test_decode_ptmo : decodeWord 0xB000 = .ok .ptmo := by decide
theorem test_decode_rd16 :
    decodeFrame [0x01, 0x03, 0x02, 0x09, 0x2A, 0x3F, 0xCB] = .ok (.rd16 0x01 0x09 0x2A [0x3F, 0xCB]) := by decide
theorem test_decode_rd32 : decodeFrame [0x01, 0x03, 0x04, 0x00, 0x01, 0x00, 0x02, 0x2A, 0x32] =
    .ok (.rd32 0x01 0x00 0x01 0x00 0x02 [0x2A, 0x32]) := by decide
theorem test_illegal_words : decodeWord 0x0000 = .error .reservedOp ∧ decodeWord 0x1001 = .error .unusedOperand ∧
    decodeWord 0x2155 = .error .reservedBits ∧ decodeWord 0x5109 = .error .reservedBits ∧
    decodeWord 0xC000 = .error .reservedOp ∧ decodeWord 0xFFFF = .error .reservedBits := by decide
theorem test_rejected_frames : decodeFrame [0x01] = .error .unsupportedFunction ∧
    decodeFrame [0x01, 0x03] = .error .frameTooShort ∧ decodeFrame [0x01, 0x03, 0x03] = .error .unrecognizedPayloadLength ∧
    decodeFrame [0x01, 0x06, 0x09] = .error .unsupportedFunction ∧
    decodeFrame [0x01, 0x03, 0x04, 0x00, 0x01, 0x00] = .error .frameTooShort := by decide
theorem test_table_word_rd16 : decodeTableWord 24 0x010302 = some (.rd16 1 0 0 [0, 0]) := by decide
theorem test_table_word_rd32 : decodeTableWord 24 0x000304 = some (.rd32 0 0 0 0 0 []) := by decide
theorem test_table_word_cgen : decodeTableWord 16 0x5006 = some (.cgen 6) := by decide

/-! ### The placed instruction is the one the next step runs -/

theorem test_placed_word_runs : (blockOf (step (State.reset.withFetchWord 16 0x4001))).acc = 0x807E := by decide +kernel
theorem test_placed_rd16_runs : (blockOf (step (State.reset.withFetchWord 24 0x000302))).rkind = .scaled16 := by
  decide +kernel
theorem test_placed_rd32_runs : (blockOf (step (State.reset.withFetchWord 24 0x000304))).rkind = .int32 := by
  decide +kernel

/-! ### Functions: spec/95_test_vectors.md sections 2.1 to 2.4 -/

theorem test_crcBit : crcBit 0x0001 = 0xA001 ∧ crcBit 0x8000 = 0x4000 ∧ crcBit 0xFFFF = 0xDFFE ∧ crcBit 0xA001 = 0xF001 := by
  decide
theorem test_crcByte : crcByte 0xFFFF 0x01 = 0x807E ∧ crcByte 0x1234 0x56 = 0xE993 ∧ crcByte 0x807E 0x03 = 0x2140 := by
  decide
theorem test_crc16_check_value : crc16 [0x31, 0x32, 0x33, 0x34, 0x35, 0x36, 0x37, 0x38, 0x39] = 0x4B37 := by decide +kernel
theorem test_verify_trailer_order : verify [0x01, 0x03, 0x02, 0x09, 0x2A, 0x3F, 0xCB] = true ∧
    verify [0x01, 0x03, 0x02, 0x09, 0x2A, 0xCB, 0x3F] = false := by decide +kernel
theorem test_decode_order : decodeReading [0x01, 0x03, 0x03] = .error .unrecognizedPayloadLength ∧
    decodeReading [0x01, 0x03, 0x02, 0x09] = .error .frameTooShort := by decide
theorem test_as_i32 : asI32 0xFFFFFFFF = -1 ∧ asI32 0x80000000 = -2147483648 := by decide

/-! ### Single steps: spec/95_test_vectors.md sections 2.6 and 2.7 -/

theorem test_fclr_keeps_bytes : (blockOf (exec .fclr (holding [1, 3]))).fb = [(0, 1), (1, 3)] := by decide
theorem test_fpush_appends : (stateOf (exec (.fpush 0x03) (holding [1]))).frame = [1, 3] := by decide
theorem test_fpush_overflow : (blockOf (exec (.fpush 0) full9)).fcause = .bufOverflow := by decide
theorem test_cinit : (blockOf (exec .cinit { State.reset with blk.acc := 0x1234 })).acc = 0xFFFF := by decide
theorem test_cupd : (blockOf (exec (.cupd 0x01) State.reset)).acc = 0x807E := by decide +kernel
theorem test_cgen_prefix :
    (blockOf (exec (.cgen 6) (holding [0x01, 0x03, 0x00, 0x07, 0x00, 0x02, 0x75, 0xCA]))).acc = 0xCA75 := by decide +kernel
theorem test_cgen_range : statusWord (blockOf (exec (.cgen 1) State.reset)) = 0x00001C00 := by decide
theorem test_capp_low_byte_first :
    (stateOf (exec .capp (holding [0x01, 0x03, 0x00, 0x07, 0x00, 0x02]))).frame = reqTable 0 := by decide +kernel
theorem test_capp_overflow : (blockOf (exec .capp { full9 with blk.flen := 8 })).fcause = .bufOverflow := by decide
theorem test_cvfy_swapped : (blockOf (exec .cvfy (holding [0x01, 0x03, 0x00, 0x07, 0x00, 0x02, 0xCA, 0x75]))).vok = false ∧
    (blockOf (exec .cvfy (holding [0x01, 0x03, 0x00, 0x07, 0x00, 0x02, 0xCA, 0x75]))).acc = 0xCA75 := by decide +kernel
theorem test_fdec_empty : statusWord (blockOf (exec .fdec State.reset)) = 0x00000008 := by decide
theorem test_fdec_rd16 : (blockOf (exec .fdec (holding [0x01, 0x03, 0x02, 0x09, 0x2A, 0x3F, 0xCB]))).rval = 0x0000092A := by
  decide +kernel
theorem test_rd16_high_byte_first : (blockOf (exec (.rd16 1 0x09 0x2A []) State.reset)).rval = 0x0000092A := by decide
theorem test_rd32_high_word_first : (blockOf (exec (.rd32 1 0x00 0x01 0x00 0x02 []) State.reset)).rval = 0x00010002 := by
  decide
theorem test_preq_sends : (stateOf (exec .preq State.reset)).tx = [reqTable 0] := by decide
theorem test_preq_twice : statusWord (blockOf (exec .preq (awaiting 0 []))) = 0x00002480 := by decide
theorem test_ptmo_out_of_order : (blockOf (exec .ptmo State.reset)).fcause = .sequence := by decide
theorem test_prsp_empty : statusWord (blockOf (exec .prsp (awaiting 0 []))) = 0x00000300 := by decide
theorem test_prsp_invalid_is_published :
    (stateOf (exec .prsp (awaiting 1 [0x01, 0x03, 0x02, 0x09, 0x2A, 0x3F, 0xCC]))).evt = [⟨1, .scaled16, 0x0000092A⟩] := by
  decide +kernel
theorem test_prsp_wraps : (blockOf (exec .prsp (awaiting 2 [0x01, 0x83, 0x02, 0xC0, 0xF1]))).idx = 0 := by decide +kernel
theorem test_illegal_word_faults : statusWord (blockOf (step (State.reset.present 0x0000))) = 0x00000C00 := by decide
theorem test_status_at_reset : (stateOf (step { State.reset with pending := [.readStatus 1] })).rd = [0x0000FFFF] := by
  decide
theorem test_frame_byte_read : (stateOf (step { holding [7, 9] with pending := [.readStatus 65] })).rd = [9] := by decide

/-! ### For each statement with hypotheses, a state and operands that meet them, clause by clause -/

theorem witness_OnlyAResetPulseClearsFault :
    { dead with pending := [HostAct.reset] }.pending = .reset :: [] ∧
    (∃ t, step { dead with pending := [.reset] } = .next t ∧ dead.blk.fault = true ∧ t.blk.fault = false) :=
  ⟨rfl, _, rfl, rfl, rfl⟩

theorem witness_StepRunsTheDecodedInstruction : decodeWord 0x5006 = .ok (.cgen 6) ∧
    decodeFrame (holding [1, 3, 2, 9, 0x2A]).frame = .ok (.rd16 1 9 0x2A []) := by decide

theorem witness_IdleBlockKeepsItsState : State.reset.pending = [] := rfl

theorem witness_IssuedWordsRunInOrder : ∀ i ∈ pollCycleCommands Config.default [1], ∃ w, encode i = .word w := by
  intro i hi
  have h : i = .preq ∨ i = .fclr ∨ i = .fpush 1 ∨ i = .prsp := by
    have hm : pollCycleCommands Config.default [1] = [.preq, .fclr, .fpush 1, .prsp] := by decide
    rw [hm] at hi; simpa using hi
  obtain rfl | rfl | rfl | rfl := h <;> exact ⟨_, rfl⟩

theorem witness_IllegalWordsAreThoseOfTheTable : State.reset.Running ∧ IllegalByRule 0x1001 :=
  ⟨rfl, .inr (.inr (.inr ⟨by decide, by decide⟩))⟩

theorem witness_FaultCausesAreThoseOfTheTable : full9.Running ∧ isNext (step (full9.present 0x2000)) = true ∧
    full9.blk.flen = full9.cfg.frameMax ∧ decodeWord 0x2000 = .ok (.fpush 0) := by decide

theorem witness_FaultEntryWritesFaultAndCauseOnly : State.reset.Running ∧ isNext (step (State.reset.present 0xB000)) = true ∧
    (blockOf (step (State.reset.present 0xB000))).fault = true := by decide

theorem witness_EncodingIsCheckedFirst : State.reset.Running ∧ decodeWord 0x5109 = .error .reservedBits := by decide

theorem witness_FaultedBlockIgnoresEveryWord : dead.blk.fault = true ∧
    { dead with pending := [HostAct.readStatus 0] }.pending = .readStatus 0 :: [] ∧
    (∀ q, { dead with pending := [HostAct.readStatus 0] }.pending ≠ .reset :: q) :=
  ⟨rfl, rfl, by simp⟩

theorem witness_EncodeOfDecodeIsTheCode : decode (.word 0x2055) = .ok (.fpush 0x55) ∧
    decode (.frame [9, 3, 2, 1, 2, 3]) = .ok (.rd16 9 1 2 [3]) := by decide

theorem witness_OutputPortsCarryFrameAndEvent : State.reset.Running ∧ State.reset.blk.pst = .idle ∧
    isNext (exec .preq State.reset) = true ∧
    (stateOf (exec .prsp (awaiting 0 [1, 3, 2, 0, 7]))).evt = (awaiting 0 [1, 3, 2, 0, 7]).evt ++ [⟨0, .scaled16, 7⟩] := by
  decide +kernel

/-- A word of each command without an operand, and of each with one, that its "Exceptions" line names. -/
theorem witness_IllegalWordsFault : State.reset.Running ∧ opField 0x1001 = 0x1 ∧ immField 0x1001 ≠ 0 ∧ opField 0x2155 = 0x2 ∧
    rsvField 0x2155 ≠ 0 ∧ opField 0x3080 = 0x3 ∧ immField 0x3080 ≠ 0 ∧ opField 0x4F00 = 0x4 ∧ rsvField 0x4F00 ≠ 0 ∧
    opField 0x5109 = 0x5 ∧ rsvField 0x5109 ≠ 0 ∧ opField 0x6001 = 0x6 ∧ immField 0x6001 ≠ 0 ∧ opField 0x7100 = 0x7 ∧
    rsvField 0x7100 ≠ 0 ∧ opField 0x8001 = 0x8 ∧ immField 0x8001 ≠ 0 ∧ opField 0x9001 = 0x9 ∧ immField 0x9001 ≠ 0 ∧
    opField 0xA001 = 0xA ∧ immField 0xA001 ≠ 0 ∧ opField 0xB800 = 0xB ∧ rsvField 0xB800 ≠ 0 := by decide

/-- `FCLR`, `CINIT`, `CUPD`, `RD16`, `RD32` and the statements that ask for a running block alone. -/
theorem witness_Running : State.reset.Running ∧ (holding [1, 3]).Running := by decide

theorem witness_FpushAppendsOneByte : full9.Running ∧ full9.blk.flen = full9.cfg.frameMax ∧
    { full9 with blk.flen := 8 }.blk.flen ≠ full9.cfg.frameMax := by decide

theorem witness_LoadingPutsTheBytesInTheFrame :
    State.reset.Running ∧ (List.replicate 32 (0 : Byte)).length ≤ State.reset.cfg.frameMax := by decide

theorem witness_CgenComputesThePrefixCrc : (holding [1, 3]).Running ∧ (3 : Byte).toNat > (holding [1, 3]).blk.flen ∧
    (2 : Byte).toNat ≤ (holding [1, 3]).blk.flen ∧
    ((2 : Byte).toNat = (holding [0xFF, 0xFF]).blk.flen ∧ (holding [0xFF, 0xFF]).frame = sealFrame []) ∧
    (holding (reqTable 0)).frame = [0x01, 0x03, 0x00, 0x07, 0x00, 0x02, 0x75, 0xCA] := by decide +kernel

theorem witness_CappSealsTheFrame : full9.Running ∧ { full9 with blk.flen := 8 }.blk.flen + 2 > full9.cfg.frameMax ∧
    { full9 with blk.flen := 7 }.blk.flen + 2 ≤ full9.cfg.frameMax := by decide

theorem witness_CvfyVerifiesTheFrame : (holding [1, 3, 0, 7]).Running ∧ (holding [1, 3, 0, 7]).blk.flen < 5 ∧
    5 ≤ (holding [1, 3, 0, 7, 0]).blk.flen ∧
    (holding (reqTable 0)).frame = [0x01, 0x03, 0x00, 0x07, 0x00, 0x02, 0x75, 0xCA] := by decide +kernel

theorem witness_DecodeIgnoresAddressAndTrailer : decodeReading [1, 3, 2, 9, 0x2A] = .ok (.scaled16, 0x0000092A) ∧
    decodeReading [1, 3, 4, 0, 1, 0, 2] = .ok (.int32, 0x00010002) := by decide

theorem witness_FdecWritesTheDecoderRegisters : State.reset.Running ∧
    decodeReading (holding [1, 3, 2, 9, 0x2A]).frame = .ok (.scaled16, 0x0000092A) ∧
    decodeReading (holding [1, 3, 9]).frame = .error .unrecognizedPayloadLength ∧ State.reset.blk.flen = 0 ∧
    (holding [0x01, 0x03, 0x02, 0x09, 0x2A, 0x3F, 0xCB]).frame = [0x01, 0x03, 0x02, 0x09, 0x2A, 0x3F, 0xCB] := by
  decide +kernel

theorem witness_RdForms : decodeFrame [1, 3, 2, 9, 0x2A] = .ok (.rd16 1 9 0x2A []) ∧
    decodeFrame [1, 3, 4, 0, 1, 0, 2] = .ok (.rd32 1 0 1 0 2 []) := by decide

theorem witness_DecodeLeavesReadingOrErrorNeverBoth : (awaiting 0 [1]).Running ∧
    isNext (exec .fdec (awaiting 0 [1])) = true ∧ isNext (exec .prsp (awaiting 0 [1])) = true ∧
    (awaiting 0 [1]).blk.pst = .awaitingResponse ∧ (awaiting 0 [1]).blk.flen ≠ 0 := by decide

/-- `PREQ`, `PTMO`, and `PRSP` on an empty response (rules R102, R103, R108): each clause. -/
theorem witness_PollCommands : State.reset.Running ∧ State.reset.blk.pst = .idle ∧
    State.reset.blk.pst ≠ .awaitingResponse ∧ (awaiting 1 []).Running ∧ (awaiting 1 []).blk.pst ≠ .idle ∧
    (awaiting 1 []).blk.pst = .awaitingResponse ∧ (awaiting 1 []).blk.flen = 0 := by decide

theorem witness_PrspDecodesPublishesVerifiesAdvances :
    ((awaiting 2 [1, 3, 2, 0, 7]).Running ∧ (awaiting 2 [1, 3, 2, 0, 7]).blk.pst = .awaitingResponse ∧
      (awaiting 2 [1, 3, 2, 0, 7]).blk.flen ≠ 0 ∧
      decodeReading (awaiting 2 [1, 3, 2, 0, 7]).frame = .ok (.scaled16, 7)) ∧
    ((awaiting 2 [1]).Running ∧ (awaiting 2 [1]).blk.pst = .awaitingResponse ∧ (awaiting 2 [1]).blk.flen ≠ 0 ∧
      decodeReading (awaiting 2 [1]).frame = .error .unsupportedFunction) := by decide +kernel

theorem witness_IndexMovesOnlyByAVerifiedResponse :
    isNext (step ((awaiting 2 [0x01, 0x83, 0x02, 0xC0, 0xF1]).present 0xA000)) = true ∧
    (blockOf (step ((awaiting 2 [0x01, 0x83, 0x02, 0xC0, 0xF1]).present 0xA000))).idx ≠ 2 := by decide +kernel

theorem witness_IndexMovesByReset :
    isNext (step { awaiting 2 [] with pending := [.reset] }) = true ∧
    (blockOf (step { awaiting 2 [] with pending := [.reset] })).idx ≠ (awaiting 2 []).blk.idx := by decide

theorem witness_PollStateMovesOnlyByPollCommands :
    (isNext (step (State.reset.present 0x9000)) = true ∧
      (blockOf (step (State.reset.present 0x9000))).pst ≠ State.reset.blk.pst) ∧
    (isNext (step ((awaiting 0 []).present 0xB000)) = true ∧
      (blockOf (step ((awaiting 0 []).present 0xB000))).pst ≠ (awaiting 0 []).blk.pst) ∧
    (isNext (step (State.reset.present 0x1000)) = true ∧
      (blockOf (step (State.reset.present 0x1000))).pst = State.reset.blk.pst) := by decide

theorem witness_PublishArgumentGatesEventsOnly :
    State.SameButEvents State.reset { State.reset with cfg.publishRequiresCrc := true } ∧
    isNext (step State.reset) = true ∧ State.reset.cfg.publishRequiresCrc = false ∧
    isNext (exec .prsp (awaiting 0 [1])) = true ∧
    isNext (exec .prsp { awaiting 0 [1] with cfg.publishRequiresCrc := true }) = true :=
  ⟨⟨rfl, rfl, rfl, rfl, rfl, rfl⟩, rfl, rfl, by decide, by decide⟩

theorem witness_EchoAdvancesWithoutAnEvent : (awaiting 1 (reqTable 1)).Running ∧
    (awaiting 1 (reqTable 1)).blk.pst = .awaitingResponse ∧ (awaiting 1 (reqTable 1)).frame = reqTable 1 := by decide +kernel

theorem witness_PollCyclesCountVerifiedResponses : State.reset.Running ∧ State.reset.blk.pst = .idle := by decide

/-- Every register, at both ends of each range of numbers: 0 to 3, 4 to 63, `FBYTE` from 64 to 95, 96 on. -/
theorem witness_StatusReadGivesTheRegister :
    (∀ n ∈ [0, 1, 2, 3, 4, 63, 64, 95, 96], { holding [7] with pending := [HostAct.readStatus n] }.pending =
      .readStatus n :: []) ∧
    (0 < (holding [7]).cfg.frameMax ∧ 64 = 64 + 0 ∧ 0 < (holding [7]).blk.flen) ∧
    (31 < (holding [7]).cfg.frameMax ∧ 95 = 64 + 31 ∧ ¬ 31 < (holding [7]).blk.flen) ∧
    (4 ≤ 4 ∧ 4 < 64) ∧ (4 ≤ 63 ∧ 63 < 64) ∧ (4 ≤ 96 ∧ 64 + (holding [7]).cfg.frameMax ≤ 96) :=
  ⟨fun _ _ => rfl, by decide, by decide, by decide, by decide, by decide⟩

/-- The numbers where the ranges meet, read: `FLEN`, then two that name no register, `FBYTE[0]`, and the first above. -/
theorem test_status_numbers : ([3, 4, 63, 64, 96].map fun n =>
    (stateOf (step { holding [7] with pending := [.readStatus n] })).rd) = [[1], [0], [0], [7], [0]] := by decide

theorem witness_InstructionsWriteOnlyWhatTheirRulesName : isNext (exec .capp State.reset) = true ∧ Element.vok ∉ writes .capp := by
  decide

theorem witness_CellsOutsideTheStoreReadAsBefore : isNext (exec .capp (holding [1])) = true ∧
    0 ∉ storedCells .capp (holding [1]) ∧ isNext (exec (.fpush 5) (holding [1])) = true ∧
    0 ∉ storedCells (.fpush 5) (holding [1]) := by decide +kernel

theorem witness_RepeatingAnIdempotentCommandChangesNothing : isNext (exec .fclr (holding [1])) = true ∧
    isNext (exec .cinit (holding [1])) = true ∧ isNext (exec (.cgen 1) (holding [1])) = true ∧
    isNext (exec .cvfy (holding [1])) = true ∧ isNext (exec .fdec (holding [1])) = true := by decide +kernel

/-- A sound state with a frame in its buffer, beside the reset state. -/
theorem witness_EveryStepKeepsTheStateSound : (holding [1, 3]).Inv ∧ isNext (step ((holding [1, 3]).present 0x6000)) = true := by
  refine ⟨⟨by decide, by decide, by decide, by decide, .inr (.inr ⟨rfl, rfl, rfl⟩), by decide, by decide, ?_⟩, by decide +kernel⟩
  simp [holding, State.loadFrame, State.reset]

/-- Two states that differ in a stale byte. -/
theorem witness_StaleBytesNeverReachAResult :
    State.SameButStale { holding [1, 3] with blk.flen := 1 } { holding [1, 9] with blk.flen := 1 } ∧
    isNext (step { holding [1, 3] with blk.flen := 1 }) = true :=
  ⟨⟨rfl, rfl, rfl, rfl, rfl, rfl, rfl, by decide⟩, rfl⟩

end Sys2Proof.Tests
end

section
/-! PROOFS. The statements of spec/00_scope.md: a step is total and runs what is decoded, and a word completes in one of
three ways (rules R7, R39, R55, R86, R114). -/

namespace Sys2Proof.Machine

/-! ### The next state always exists -/

theorem exec_next (i : Instr) (s : State) : ∃ t, exec i s = .next t := by
  cases hf : s.blk.fault with
  | true => exact ⟨s, by rw [exec_eq_whenRunning, whenRunning_of_fault hf]⟩
  | false => exact ⟨work i s, exec_of_running hf i⟩

theorem runWord_next (w : U16) (s : State) : ∃ t, runWord w s = .next t := by
  rcases decodeWord_cases w with ⟨e, he⟩ | ⟨i, hi⟩
  · exact ⟨_, runWord_error he s⟩
  · rw [runWord_ok hi]
    exact exec_next i s

theorem step_next (s : State) : ∃ t, step s = .next t := by
  cases hp : s.pending with
  | nil => exact ⟨s, step_nil hp⟩
  | cons a q =>
    rw [step_cons hp]
    cases a with
    | command w => exact runWord_next w _
    | readStatus n => exact ⟨_, rfl⟩
    | reset => exact ⟨_, rfl⟩

/-! ### What a command leaves of a running block -/

/-- The two ends of a command of the running block `s` (rules R7, R136): it ran to completion, or it raised a fault with a
cause and did nothing else. -/
def State.RunsOrFaults (s t : State) : Prop := t.Running ∨ ∃ c, c ≠ .none ∧ t = s.faulted c

/-- The shape of every command that can fault: its check raises the fault before any work is done (rule R136). -/
theorem State.RunsOrFaults.ite_raise {s t : State} {c : Fcause} {p : Prop} [Decidable p] (h : s.Running)
    (hc : c ≠ .none) (ht : t.Running) : s.RunsOrFaults (if p then s.raise c else t) := by
  split
  · exact .inr ⟨c, hc, State.raise_of_running h c⟩
  · exact .inl ht

theorem State.writeVerify_running {s : State} (h : s.Running) : s.writeVerify.Running := by
  rw [State.writeVerify_frame]
  exact h

theorem State.writeDecode_running {s : State} (h : s.Running) (r : Except FrameError Reading) :
    (s.writeDecode r).Running := by
  rw [State.writeDecode_frame]
  exact h

theorem State.processResponse_running {s : State} (h : s.Running) : s.processResponse.Running := by
  rw [State.processResponse_eq]
  exact h

theorem work_runsOrFaults (i : Instr) {s : State} (h : s.Running) : s.RunsOrFaults (work i s) := by
  cases i with
  | fclr | cinit | cupd | rd16 | rd32 => exact .inl h
  | cvfy => exact .inl (State.writeVerify_running h)
  | fdec => exact .inl (State.writeDecode_running h _)
  | fpush | cgen | capp | preq | ptmo => exact .ite_raise h (by decide) h
  | prsp =>
    have hcycle : (if s.blk.flen = 0 then s.endTimeout else s.processResponse).Running := by
      split
      · exact h
      · exact State.processResponse_running h
    exact .ite_raise h (by decide) hcycle

/-- Settles O4: the step is total, and a word that finds the block running is illegal and raises `ILLEGAL_CMD`, or is a
command, which runs or faults. -/
theorem everyWordEndsInOneOfThreeWays : Obligations.EveryWordEndsInOneOfThreeWays := by
  unfold Obligations.EveryWordEndsInOneOfThreeWays
  refine ⟨step_next, fun s w => ?_⟩
  rw [step_present]
  obtain ⟨t, ht⟩ := runWord_next w s
  refine ⟨t, ht, ?_⟩
  rcases runWord_cases ht with hfaulted | ⟨hs, -, rfl⟩ | ⟨hs, i, hi, rfl⟩
  · exact .inl hfaulted
  · exact .inr (.inl ⟨hs, .illegalCmd, by decide, rfl⟩)
  · rcases work_runsOrFaults i hs with hruns | hfault
    · exact .inr (.inr ⟨hs, hruns, i, hi, exec_of_running hs i⟩)
    · exact .inr (.inl ⟨hs, hfault⟩)

/-! ### A frame form, reached through `FDEC` -/

/-- A frame form writes the decoder registers as `FDEC` does for the reading of the form (rules R86 to R88). -/
theorem work_of_formReading {i : Instr} {r : Reading} (h : formReading i = some r) (s : State) :
    work i s = s.writeDecode (.ok r) := by
  match i, h with
  | .rd16 _ _ _ _, rfl => rfl
  | .rd32 _ _ _ _ _ _, rfl => rfl

theorem work_fdec_of_form {s : State} {i : Instr} (h : decodeFrame s.frame = .ok i) : work .fdec s = work i s := by
  rcases decodeReading_cases s.frame with ⟨e, he, -⟩ | ⟨j, r, hj, hform, hr⟩
  · rw [he] at h
    cases h
  · obtain rfl : j = i := Except.ok.inj (hj.symm.trans h)
    rw [work_of_formReading hform, work, hr]

theorem exec_fdec_of_form {s : State} {i : Instr} (h : decodeFrame s.frame = .ok i) : exec .fdec s = exec i s := by
  simp only [exec_eq_whenRunning, whenRunning, work_fdec_of_form h]

/-- Settles O3: a presented word runs what it decodes to, and `FDEC` on a frame of a form does the work of the form. -/
theorem stepRunsTheDecodedInstruction : Obligations.StepRunsTheDecodedInstruction := by
  unfold Obligations.StepRunsTheDecodedInstruction
  refine ⟨fun s w i hw => ?_, fun s i hf => ?_⟩
  · rw [step_present, runWord_ok hw]
  · have hfdec : decodeWord 0x8000 = .ok .fdec := by decide
    rw [step_present, runWord_ok hfdec, exec_fdec_of_form hf]

end Sys2Proof.Machine
end

section
/-! PROOFS. The statements of spec/10_state.md: the status fields and the status port (rules R14 to R24), the decoder
registers (R17), what an instruction may write (R10), the invariant of the machine, and that stale bytes reach no result
(R13, R28). -/

namespace Sys2Proof.Machine

/-! ### Fields of a status register -/

/-- Settles O48: the codes stand in the definitions. -/
theorem statusFieldsHaveTheirCodes : Obligations.StatusFieldsHaveTheirCodes := by
  unfold Obligations.StatusFieldsHaveTheirCodes
  refine ⟨⟨rfl, rfl, rfl⟩, ⟨rfl, rfl, rfl, rfl⟩, ⟨rfl, rfl⟩, ⟨rfl, rfl, rfl, rfl⟩, fun k => ?_, by decide⟩
  cases k with
  | none | scaled16 | int32 => decide

theorem fieldAt_zero {n : Nat} (v : BitVec n) : fieldAt v 0 = v.setWidth 32 := by
  simp [fieldAt]

/-- A field reads back at its own place. -/
theorem extractLsb'_fieldAt {n lo : Nat} (v : BitVec n) (h : lo + n ≤ 32) : (fieldAt v lo).extractLsb' lo n = v := by
  ext i hi
  have hlt : lo + i < 32 := by omega
  simp [fieldAt, hlt, BitVec.getLsbD_eq_getElem hi]

/-- The bits below a field are zero. -/
theorem extractLsb'_fieldAt_below {n lo : Nat} (v : BitVec n) {k m : Nat} (h : k + m ≤ lo) :
    (fieldAt v lo).extractLsb' k m = 0 := by
  ext i hi
  have hlt : k + i < lo := by omega
  simp [fieldAt, hlt]

/-- The bits above a field are zero. -/
theorem extractLsb'_fieldAt_above {n lo : Nat} (v : BitVec n) {k m : Nat} (h : lo + n ≤ k) :
    (fieldAt v lo).extractLsb' k m = 0 := by
  ext i hi
  have hle : n ≤ k + i - lo := by omega
  simp [fieldAt, BitVec.getLsbD_of_ge v _ hle]

/-- A zero-extended value reads back in the low bits. -/
theorem extractLsb'_setWidth_low {n : Nat} (v : BitVec n) (h : n ≤ 32) : (v.setWidth 32).extractLsb' 0 n = v := by
  rw [← fieldAt_zero]
  exact extractLsb'_fieldAt v (by omega)

/-- Above a zero-extended value there are zeros. -/
theorem extractLsb'_setWidth_high {n : Nat} (v : BitVec n) {k m : Nat} (h : n ≤ k) :
    (v.setWidth 32).extractLsb' k m = 0 := by
  rw [← fieldAt_zero]
  exact extractLsb'_fieldAt_above v (by omega)

/-- `STATUS` has its fields in their places and zeros above them (rule R24). -/
theorem statusWord_fields (b : Block) :
    (statusWord b).extractLsb' 0 1 = bitOf b.vok ∧ (statusWord b).extractLsb' 1 2 = b.rkind.bits ∧
    (statusWord b).extractLsb' 3 2 = b.derr.bits ∧ (statusWord b).extractLsb' 5 2 = idxBits b.idx ∧
    (statusWord b).extractLsb' 7 1 = b.pst.bits ∧ (statusWord b).extractLsb' 8 2 = b.plast.bits ∧
    (statusWord b).extractLsb' 10 1 = bitOf b.fault ∧ (statusWord b).extractLsb' 11 3 = b.fcause.bits ∧
    (statusWord b).extractLsb' 14 18 = 0 := by
  simp [statusWord, BitVec.extractLsb'_or, extractLsb'_fieldAt, extractLsb'_fieldAt_below,
    extractLsb'_fieldAt_above]

/-! ### Status registers by number -/

section Registers

variable (s : State) (any : Byte)

theorem statusRegister_status : statusRegister s any 0 = statusWord s.blk := rfl

theorem statusRegister_acc : statusRegister s any 1 = s.blk.acc.setWidth 32 := rfl

theorem statusRegister_rval : statusRegister s any 2 = s.blk.rval := rfl

theorem statusRegister_flen : statusRegister s any 3 = (BitVec.ofNat 8 s.blk.flen).setWidth 32 := rfl

/-- `FBYTE[i]` is the byte of the frame at `i`, or any byte from `FLEN` on. -/
theorem statusRegister_fbyte {i : Nat} (h : i < s.cfg.frameMax) : statusRegister s any (64 + i) =
    (if i < s.blk.flen then byteAt s.frame i else any).setWidth 32 := by
  have hrange : 64 ≤ 64 + i ∧ 64 + i < 64 + s.cfg.frameMax := by omega
  have hread : (if i < s.blk.flen then Memory.read s.blk.fb i else any) =
      if i < s.blk.flen then byteAt s.frame i else any := by
    split
    · rw [State.byteAt_frame s ‹_›]
    · rfl
  rw [statusRegister, if_neg (by omega), if_neg (by omega), if_neg (by omega), if_neg (by omega), if_pos hrange,
    Nat.add_sub_cancel_left, hread]

/-- A number that names no register reads as zero. -/
theorem statusRegister_unlisted {n : Nat} (h : 4 ≤ n) (hn : n < 64 ∨ 64 + s.cfg.frameMax ≤ n) :
    statusRegister s any n = 0 := by
  rw [statusRegister, if_neg (by omega), if_neg (by omega), if_neg (by omega), if_neg (by omega), if_neg (by omega)]

end Registers

/-- Settles O47: a read records the register and touches nothing of the block; the register is found by its number. -/
theorem statusReadGivesTheRegister : Obligations.StatusReadGivesTheRegister := by
  unfold Obligations.StatusReadGivesTheRegister
  refine ⟨fun s n q hp => ?_, fun any => ⟨rfl, rfl, rfl, rfl⟩⟩
  refine ⟨_, statusRegister s (Config.anyByte s.freeCtr) n, step_cons hp, rfl, ?status, ?acc, ?rval, ?flen, ?fbyte,
    ?unlisted⟩
  case status =>
    rintro rfl
    rw [statusRegister_status]
    exact statusWord_fields s.blk
  case acc =>
    rintro rfl
    rw [statusRegister_acc]
    exact ⟨extractLsb'_setWidth_low _ (by decide), extractLsb'_setWidth_high _ (by decide)⟩
  case rval =>
    rintro rfl
    exact statusRegister_rval s _
  case flen =>
    rintro rfl
    rw [statusRegister_flen]
    exact ⟨extractLsb'_setWidth_low _ (by decide), extractLsb'_setWidth_high _ (by decide)⟩
  case fbyte =>
    rintro i hi rfl
    rw [statusRegister_fbyte s _ hi]
    refine ⟨fun hlen => ?_, extractLsb'_setWidth_high _ (by decide)⟩
    rw [if_pos hlen]
    exact extractLsb'_setWidth_low _ (by decide)
  case unlisted => exact statusRegister_unlisted s _

/-! ### What a decode leaves in the decoder registers -/

/-- What a decode leaves (rule R17): a reading, or an error without one. -/
def Block.Decoded (b : Block) : Prop :=
  (b.derr = .ok ∧ (b.rkind = .scaled16 ∨ b.rkind = .int32)) ∨ (b.derr ≠ .ok ∧ b.rkind = .none ∧ b.rval = 0)

theorem Block.Decoded.consistent {b : Block} (h : b.Decoded) : b.DecoderConsistent := h.imp_right .inl

theorem ReadingKind.rkind_is_reading (k : ReadingKind) : k.rkind = .scaled16 ∨ k.rkind = .int32 := by
  cases k with
  | scaled16 => exact .inl rfl
  | int32 => exact .inr rfl

theorem derrOf_ne_ok (e : FrameError) : derrOf e ≠ .ok := by
  cases e with
  | unsupportedFunction | unrecognizedPayloadLength | frameTooShort => decide

theorem State.writeDecode_decoded (s : State) (r : Except FrameError Reading) : (s.writeDecode r).blk.Decoded := by
  match r with
  | .ok (k, _) => exact .inl ⟨rfl, k.rkind_is_reading⟩
  | .error e => exact .inr ⟨derrOf_ne_ok e, rfl, rfl⟩

/-- A `PRSP` that runs the decoder leaves its registers as `FDEC` would. -/
theorem State.processResponse_decoded (s : State) : s.processResponse.blk.Decoded := by
  rw [State.processResponse_eq]
  exact s.writeDecode_decoded _

theorem work_prsp_of_response {s : State} (hp : s.blk.pst = .awaitingResponse) (hl : s.blk.flen ≠ 0) :
    work .prsp s = s.processResponse := by
  simp [work, hp, hl]

/-- Settles O37: both commands end in one write of the decoder registers. -/
theorem decodeLeavesReadingOrErrorNeverBoth : Obligations.DecodeLeavesReadingOrErrorNeverBoth := by
  unfold Obligations.DecodeLeavesReadingOrErrorNeverBoth
  refine ⟨fun s t hs h => ?_, rfl, rfl⟩
  rw [exec_of_running hs, exec_of_running hs] at h
  rcases h with h | ⟨h, hp, hl⟩
  · cases h
    exact s.writeDecode_decoded _
  · cases h
    rw [work_prsp_of_response hp hl]
    exact s.processResponse_decoded

/-! ### What an operation may write -/

/-- The two states agree on every element that the list does not name. -/
def ChangesOnly (es : List Element) (s t : State) : Prop := ∀ e, e ∉ es → Agree s t e

theorem Agree.refl (s : State) (e : Element) : Agree s s e := by
  cases e with
  | fb => exact ⟨rfl, fun _ => rfl⟩
  | _ => rfl

theorem Agree.trans {s t u : State} {e : Element} (h : Agree s t e) (h' : Agree t u e) : Agree s u e := by
  cases e with
  | fb => exact ⟨h'.1.trans h.1, fun a => (h'.2 a).trans (h.2 a)⟩
  | _ => exact Eq.trans h' h

theorem ChangesOnly.mono {es es' : List Element} {s t : State} (h : ChangesOnly es s t) (hsub : es ⊆ es') :
    ChangesOnly es' s t :=
  fun e he => h e fun hmem => he (hsub hmem)

/-- One operation after another writes what the two write. -/
theorem ChangesOnly.trans {es es' : List Element} {s t u : State} (h : ChangesOnly es s t) (h' : ChangesOnly es' t u) :
    ChangesOnly (es ++ es') s u := fun e he =>
  have hnot := not_or.mp (mt List.mem_append.mpr he)
  (h e hnot.1).trans (h' e hnot.2)

section Writes

variable (s : State)

theorem State.setAcc_changesOnly (v : U16) : ChangesOnly [.acc] s { s with blk.acc := v } := by
  intro e he
  cases e with
  | acc => simp at he
  | fb => exact ⟨rfl, fun _ => rfl⟩
  | _ => rfl

theorem State.setFlen_changesOnly (n : Nat) : ChangesOnly [.flen] s { s with blk.flen := n } := by
  intro e he
  cases e with
  | flen => simp at he
  | fb => exact ⟨rfl, fun _ => rfl⟩
  | _ => rfl

theorem State.setPst_changesOnly (p : Pst) : ChangesOnly [.pst] s { s with blk.pst := p } := by
  intro e he
  cases e with
  | pst => simp at he
  | fb => exact ⟨rfl, fun _ => rfl⟩
  | _ => rfl

theorem State.raise_changesOnly (c : Fcause) : ChangesOnly [.fault, .fcause] s (s.raise c) := by
  intro e he
  unfold State.raise
  split
  · exact Agree.refl s e
  · cases e with
    | fault | fcause => simp at he
    | fb => exact ⟨rfl, fun _ => rfl⟩
    | _ => rfl

/-- A command that can fault writes `FAULT` and `FCAUSE`, or does its work (rule R135). -/
theorem ChangesOnly.ite_raise {s t : State} {es : List Element} {p : Prop} [Decidable p] {c : Fcause}
    (h : ChangesOnly es s t) : ChangesOnly (es ++ [.fault, .fcause]) s (if p then s.raise c else t) := by
  split
  · exact (s.raise_changesOnly c).mono (List.subset_append_right _ _)
  · exact h.mono (List.subset_append_left _ _)

theorem State.append_changesOnly (b : Byte) : ChangesOnly [.fb, .flen] s (s.append b) := by
  intro e he
  cases e with
  | fb | flen => simp at he
  | _ => rfl

theorem State.emitTx_changesOnly (f : List Byte) : ChangesOnly [.tx] s (s.emitTx f) := by
  intro e he
  cases e with
  | tx => simp at he
  | fb => exact ⟨rfl, fun _ => rfl⟩
  | _ => rfl

theorem State.publish_changesOnly (r : Except FrameError Reading) (v : Bool) : ChangesOnly [.evt] s (s.publish r v) := by
  intro e he
  cases e with
  | evt => simp at he
  | fb => exact ⟨rfl, fun _ => rfl⟩
  | _ => rfl

theorem State.writeVerify_changesOnly : ChangesOnly [.acc, .vok] s s.writeVerify := by
  intro e he
  rw [State.writeVerify_frame]
  cases e with
  | acc | vok => simp at he
  | fb => exact ⟨rfl, fun _ => rfl⟩
  | _ => rfl

theorem State.writeDecode_changesOnly (r : Except FrameError Reading) :
    ChangesOnly [.rkind, .rval, .derr] s (s.writeDecode r) := by
  intro e he
  rw [State.writeDecode_frame]
  cases e with
  | rkind | rval | derr => simp at he
  | fb => exact ⟨rfl, fun _ => rfl⟩
  | _ => rfl

theorem State.endTimeout_changesOnly : ChangesOnly [.plast, .pst] s s.endTimeout := by
  intro e he
  cases e with
  | plast | pst => simp at he
  | fb => exact ⟨rfl, fun _ => rfl⟩
  | _ => rfl

theorem State.endCycle_changesOnly (v : Bool) : ChangesOnly [.idx, .plast, .pst] s (s.endCycle v) := by
  intro e he
  rw [State.endCycle_frame]
  cases e with
  | idx | plast | pst => simp at he
  | fb => exact ⟨rfl, fun _ => rfl⟩
  | _ => rfl

/-- The two stores of `CAPP` (rule R73). -/
theorem State.append_append_changesOnly (b b' : Byte) : ChangesOnly [.fb, .flen] s ((s.append b).append b') :=
  ((s.append_changesOnly b).trans (State.append_changesOnly _ b')).mono (by simp)

/-- The cycle of a response writes what its four parts write (rule R104). -/
theorem State.processResponse_changesOnly :
    ChangesOnly [.rkind, .rval, .derr, .evt, .acc, .vok, .idx, .plast, .pst] s s.processResponse := by
  have hpublished := (s.writeDecode_changesOnly (decodeReading s.frame)).trans
    (State.publish_changesOnly _ (decodeReading s.frame) (verify s.frame))
  exact (hpublished.trans (State.writeVerify_changesOnly _)).trans (State.endCycle_changesOnly _ _)

/-- The work of an instruction writes what its rule names: its check can raise a fault, and its parts do the rest. -/
theorem work_changesOnly (i : Instr) : ChangesOnly (writes i) s (work i s) := by
  cases i with
  | fclr => exact s.setFlen_changesOnly 0
  | fpush b => exact (s.append_changesOnly b).ite_raise
  | cinit | cupd => exact s.setAcc_changesOnly _
  | cgen n => exact (s.setAcc_changesOnly _).ite_raise
  | capp => exact ((s.append_append_changesOnly _ _).trans (State.setAcc_changesOnly _ (crc16 s.frame))).ite_raise
  | cvfy => exact s.writeVerify_changesOnly
  | fdec => exact s.writeDecode_changesOnly _
  | preq =>
    have hsend := (s.setPst_changesOnly .awaitingResponse).trans (State.emitTx_changesOnly _ (reqTable s.blk.idx))
    exact hsend.ite_raise
  | prsp =>
    have hcycle : ChangesOnly [.rkind, .rval, .derr, .evt, .acc, .vok, .idx, .plast, .pst] s
        (if s.blk.flen = 0 then s.endTimeout else s.processResponse) := by
      split
      · exact s.endTimeout_changesOnly.mono (by simp)
      · exact s.processResponse_changesOnly
    exact hcycle.ite_raise
  | ptmo => exact s.endTimeout_changesOnly.ite_raise
  | rd16 _ d0 d1 _ => exact s.writeDecode_changesOnly (.ok (.scaled16, _))
  | rd32 _ d0 d1 d2 d3 _ => exact s.writeDecode_changesOnly (.ok (.int32, _))

end Writes

/-- Settles O49: a faulted block keeps everything, and the work of a running one writes what its rule names. -/
theorem instructionsWriteOnlyWhatTheirRulesName : Obligations.InstructionsWriteOnlyWhatTheirRulesName := by
  unfold Obligations.InstructionsWriteOnlyWhatTheirRulesName
  intro i s t e h he
  rcases exec_cases h with ⟨-, rfl⟩ | ⟨-, rfl⟩
  · exact Agree.refl _ e
  · exact work_changesOnly s i e he

/-! ### The invariant, operation by operation -/

/-- A scaled reading is a zero-extended register (rule R87). -/
theorem decodeReading_scaled_high {f : List Byte} {v : U32} (h : decodeReading f = .ok (.scaled16, v)) :
    v.extractLsb' 16 16 = 0 := by
  rcases decodeReading_cases f with ⟨e, -, he⟩ | ⟨i, r, -, hform, hr⟩
  · rw [he] at h
    cases h
  · obtain rfl : r = (.scaled16, v) := Except.ok.inj (hr.symm.trans h)
    match i, hform with
    | .rd16 _ d0 d1 _, rfl => exact extractLsb'_setWidth_high (cat16 d0 d1) (by decide)

namespace State.Inv

variable {s : State}

theorem faulted (h : s.Inv) {c : Fcause} (hc : c ≠ .none) : (s.faulted c).Inv :=
  { h with faultCause := ⟨fun _ => hc, fun _ => rfl⟩ }

theorem raise (h : s.Inv) {c : Fcause} (hc : c ≠ .none) : (s.raise c).Inv := by
  unfold State.raise
  split
  · exact h
  · exact h.faulted hc

/-- A command that can fault is sound if its work is, where its check lets it be done. -/
theorem ite_raise (h : s.Inv) {t : State} {p : Prop} [Decidable p] {c : Fcause} (hc : c ≠ .none) (ht : ¬ p → t.Inv) :
    (if p then s.raise c else t).Inv := by
  split
  · exact h.raise hc
  · exact ht ‹_›

/-- A store at `FLEN` in a buffer that is not full (rules R13, R36). -/
theorem append (h : s.Inv) (hroom : s.blk.flen < s.cfg.frameMax) (b : Byte) : (s.append b).Inv where
  fbWf := Memory.wf_write h.fbWf _ _
  fbBound c hc := by
    rcases Memory.mem_write hc with rfl | hc
    · exact hroom
    · exact h.fbBound c hc
  flenBound := hroom
  frameWritten i hi := by
    rw [State.append_blk]
    by_cases hlast : i = s.blk.flen
    · subst hlast
      simp
    · rw [Memory.lookup_write_other _ _ hlast]
      exact h.frameWritten i (Nat.lt_of_le_of_ne (Nat.le_of_lt_succ hi) hlast)
  decoder := h.decoder
  scaledHigh := h.scaledHigh
  faultCause := h.faultCause
  txRows := h.txRows

theorem emitTx (h : s.Inv) (k : Fin 3) : (s.emitTx (reqTable k)).Inv :=
  { h with
    txRows := fun f hf => by
      rcases List.mem_append.mp hf with hf | hf
      · exact h.txRows f hf
      · exact ⟨k, List.mem_singleton.mp hf⟩ }

theorem writeReading (h : s.Inv) {kind : ReadingKind} {v : U32} (hv : kind = .scaled16 → v.extractLsb' 16 16 = 0) :
    (s.writeReading kind v).Inv :=
  { h with
    decoder := (s.writeDecode_decoded (.ok (kind, v))).consistent
    scaledHigh := fun hk => hv (by cases kind with
      | scaled16 => rfl
      | int32 => cases hk) }

theorem writeError (h : s.Inv) (e : FrameError) : (s.writeError e).Inv :=
  { h with
    decoder := (s.writeDecode_decoded (.error e)).consistent
    scaledHigh := fun hk => by cases hk }

theorem writeDecode (h : s.Inv) (f : List Byte) : (s.writeDecode (decodeReading f)).Inv := by
  match hr : decodeReading f with
  | .ok (kind, v) => exact h.writeReading fun hk => decodeReading_scaled_high (hk ▸ hr)
  | .error e => exact h.writeError e

theorem writeVerify (h : s.Inv) : s.writeVerify.Inv := by
  rw [State.writeVerify_frame]
  exact { h with }

theorem endCycle (h : s.Inv) (v : Bool) : (s.endCycle v).Inv := by
  rw [State.endCycle_frame]
  exact { h with }

theorem processResponse (h : s.Inv) : s.processResponse.Inv :=
  have hpublished : ((s.writeDecode (decodeReading s.frame)).publish (decodeReading s.frame) (verify s.frame)).Inv :=
    { h.writeDecode s.frame with }
  hpublished.writeVerify.endCycle _

theorem endTimeout (h : s.Inv) : s.endTimeout.Inv := { h with }

/-- The block at its reset values is sound whatever the parameters (rule R151). -/
theorem pulseReset (s : State) : s.pulseReset.Inv where
  fbWf := rfl
  fbBound c hc := by cases hc
  flenBound := Nat.zero_le _
  frameWritten i hi := by cases hi
  decoder := .inr (.inr ⟨rfl, rfl, rfl⟩)
  scaledHigh hk := by cases hk
  faultCause := by simp [Block.reset]
  txRows f hf := by cases hf

/-- The work of an instruction keeps the invariant: what it stores has room, and what it decodes is a reading or an
error. -/
theorem work (h : s.Inv) (i : Instr) : (work i s).Inv := by
  cases i with
  | fclr => exact { h with flenBound := Nat.zero_le _, frameWritten := fun i hi => by cases hi }
  | fpush b => exact h.ite_raise (by decide) fun hroom => h.append (Nat.lt_of_le_of_ne h.flenBound hroom) b
  | cinit | cupd => exact { h with }
  | cgen n => exact h.ite_raise (by decide) fun _ => { h with }
  | capp =>
    refine h.ite_raise (by decide) fun hroom => ?_
    have hfirst := h.append (by omega) (lowByte (crc16 s.frame))
    have hsecond := hfirst.append (by simp; omega) (highByte (crc16 s.frame))
    exact { hsecond with }
  | cvfy => exact h.writeVerify
  | fdec => exact h.writeDecode _
  | preq => exact h.ite_raise (by decide) fun _ => { h.emitTx s.blk.idx with }
  | prsp =>
    refine h.ite_raise (by decide) fun _ => ?_
    split
    · exact h.endTimeout
    · exact h.processResponse
  | ptmo => exact h.ite_raise (by decide) fun _ => h.endTimeout
  | rd16 _ d0 d1 _ => exact h.writeReading fun _ => extractLsb'_setWidth_high (cat16 d0 d1) (by decide)
  | rd32 => exact h.writeReading nofun

end State.Inv

/-- Settles O53: the invariant is kept by a reset, by a status read, which touches nothing it speaks of, and by a word. -/
theorem everyStepKeepsTheStateSound : Obligations.EveryStepKeepsTheStateSound := by
  unfold Obligations.EveryStepKeepsTheStateSound
  intro s t h hstep
  rcases step_cases hstep with ⟨-, rfl⟩ | ⟨q, -, rfl⟩ | ⟨n, q, -, rfl⟩ | ⟨w, q, -, hw⟩
  · exact h
  · exact State.Inv.pulseReset _
  · exact { h with }
  · have hq : State.Inv { s with pending := q } := { h with }
    rcases runWord_cases hw with ⟨-, rfl⟩ | ⟨-, -, rfl⟩ | ⟨-, i, -, rfl⟩
    · exact hq
    · exact hq.faulted (by decide)
    · exact hq.work i

/-! ### States alike below `FLEN`, operation by operation -/

namespace State.SameButStale

variable {s t : State}

theorem flen (h : s.SameButStale t) : t.blk.flen = s.blk.flen := congrArg (·.flen) h.blk

theorem fault (h : s.SameButStale t) : t.blk.fault = s.blk.fault := congrArg (·.fault) h.blk

/-- Such a state is the other one with another buffer. -/
theorem eq_with_fb (h : s.SameButStale t) : t = { s with blk.fb := t.blk.fb } := by
  have hblk : t.blk = { s.blk with fb := t.blk.fb } := congrArg (fun b : Block => { b with fb := t.blk.fb }) h.blk
  change State.mk t.cfg t.blk t.tx t.evt t.rd t.pending t.freeCtr = _
  rw [h.cfg, h.tx, h.evt, h.rd, h.pending, h.freeCtr]
  exact congrArg (fun b => { s with blk := b }) hblk

/-- So it is enough to compare a state with itself on another buffer, which reads alike below `FLEN`. -/
theorem exists_fb (h : s.SameButStale t) :
    ∃ m, t = { s with blk.fb := m } ∧ ∀ i < s.blk.flen, Memory.read m i = Memory.read s.blk.fb i :=
  ⟨t.blk.fb, h.eq_with_fb, h.valid⟩

theorem frameTake (h : s.SameButStale t) {n : Nat} (hn : n ≤ s.blk.flen) : t.frameTake n = s.frameTake n :=
  Memory.bytes_congr fun i _ hi => h.valid i (by omega)

theorem frame (h : s.SameButStale t) : t.frame = s.frame := by
  rw [State.frame, h.flen]
  exact h.frameTake le_rfl

/-- The two states take the same branch of a check, and stay alike if they do on either. -/
theorem ite {u u' : State} {p : Prop} [Decidable p] (h : p → s.SameButStale t) (h' : ¬ p → u.SameButStale u') :
    (if p then s else u).SameButStale (if p then t else u') := by
  split
  · exact h ‹_›
  · exact h' ‹_›

/-- An operation that does the same on any buffer, and leaves the buffer and `FLEN`, keeps the two states alike. -/
theorem map (h : s.SameButStale t) (u : State → State)
    (hany : ∀ m, u { s with blk.fb := m } = { u s with blk.fb := m }) (hfb : (u s).blk.fb = s.blk.fb)
    (hlen : (u s).blk.flen = s.blk.flen) : (u s).SameButStale (u t) := by
  obtain ⟨m, rfl, hm⟩ := h.exists_fb
  rw [hany m]
  refine ⟨rfl, rfl, rfl, rfl, rfl, rfl, rfl, fun i hi => ?_⟩
  rw [hfb]
  exact hm i (hlen ▸ hi)

theorem raise (h : s.SameButStale t) (c : Fcause) : (s.raise c).SameButStale (t.raise c) := by
  rw [State.raise, State.raise, h.fault]
  exact .ite (fun _ => h) fun _ => h.map (·.faulted c) (fun _ => rfl) rfl rfl

theorem setAcc (h : s.SameButStale t) (v : U16) : { s with blk.acc := v }.SameButStale { t with blk.acc := v } :=
  h.map (fun s => { s with blk.acc := v }) (fun _ => rfl) rfl rfl

/-- The byte stored is the same, and the cells below it read alike as before. -/
theorem append (h : s.SameButStale t) (b : Byte) : (s.append b).SameButStale (t.append b) := by
  obtain ⟨m, rfl, hm⟩ := h.exists_fb
  refine ⟨rfl, rfl, rfl, rfl, rfl, rfl, rfl, fun i hi => ?_⟩
  rw [State.append_blk] at hi
  by_cases hlast : i = s.blk.flen
  · subst hlast
    simp
  · have hlt : i < s.blk.flen := Nat.lt_of_le_of_ne (Nat.le_of_lt_succ hi) hlast
    simp [Memory.read_write_other _ _ hlast, hm i hlt]

theorem writeDecode (h : s.SameButStale t) (r : Except FrameError Reading) :
    (s.writeDecode r).SameButStale (t.writeDecode r) := by
  cases r with
  | ok r => exact h.map (·.writeReading r.1 r.2) (fun _ => rfl) rfl rfl
  | error e => exact h.map (·.writeError e) (fun _ => rfl) rfl rfl

theorem publish (h : s.SameButStale t) (r : Except FrameError Reading) (v : Bool) :
    (s.publish r v).SameButStale (t.publish r v) :=
  h.map (·.publish r v) (fun _ => rfl) rfl rfl

/-- What `CVFY` reads of the buffer is the frame. -/
theorem writeVerify (h : s.SameButStale t) : s.writeVerify.SameButStale t.writeVerify := by
  rw [State.writeVerify_eq, State.writeVerify_eq, h.frame, h.flen, h.frameTake (Nat.sub_le _ _)]
  exact .ite (fun _ => h.map (fun u => { u with blk.vok := verify s.frame }) (fun _ => rfl) rfl rfl)
    fun _ => h.map (fun u => { u with blk.acc := crc16 (s.frameTake (s.blk.flen - 2)), blk.vok := verify s.frame })
      (fun _ => rfl) rfl rfl

theorem endCycle (h : s.SameButStale t) (v : Bool) : (s.endCycle v).SameButStale (t.endCycle v) := by
  cases v with
  | true | false => exact h.map (·.endCycle _) (fun _ => rfl) rfl rfl

theorem processResponse (h : s.SameButStale t) : s.processResponse.SameButStale t.processResponse := by
  rw [State.processResponse, State.processResponse, h.frame]
  exact (((h.writeDecode _).publish _ _).writeVerify).endCycle _

theorem endTimeout (h : s.SameButStale t) : s.endTimeout.SameButStale t.endTimeout :=
  h.map (·.endTimeout) (fun _ => rfl) rfl rfl

theorem pulseReset (h : s.SameButStale t) : s.pulseReset.SameButStale t.pulseReset :=
  ⟨h.cfg, rfl, rfl, rfl, h.pending, h.freeCtr, rfl, fun _ _ => rfl⟩

theorem dequeue (h : s.SameButStale t) (q : List HostAct) :
    { s with pending := q }.SameButStale { t with pending := q } :=
  ⟨h.cfg, h.tx, h.evt, h.rd, rfl, h.freeCtr, h.blk, h.valid⟩

/-- An instruction reads the frame and no other byte of the buffer (rule R28). -/
theorem work (h : s.SameButStale t) (i : Instr) : (work i s).SameButStale (work i t) := by
  have hframe := h.frame
  obtain ⟨m, rfl, -⟩ := h.exists_fb
  cases i with
  | fclr => exact ⟨rfl, rfl, rfl, rfl, rfl, rfl, rfl, fun i hi => by cases hi⟩
  | fpush b => exact .ite (fun _ => h.raise _) fun _ => h.append b
  | cinit | cupd => exact h.setAcc _
  | cgen n =>
    refine .ite (fun _ => h.raise _) fun hn => ?_
    rw [h.frameTake (Nat.le_of_not_lt hn)]
    exact h.setAcc _
  | capp =>
    refine .ite (fun _ => h.raise _) fun _ => ?_
    rw [hframe]
    exact ((h.append _).append _).setAcc _
  | cvfy => exact h.writeVerify
  | fdec =>
    simp only [Machine.work, hframe]
    exact h.writeDecode _
  | preq =>
    exact .ite (fun _ => h.raise _) fun _ =>
      h.map (fun u => { u.emitTx (reqTable u.blk.idx) with blk.pst := .awaitingResponse }) (fun _ => rfl) rfl rfl
  | prsp =>
    exact .ite (fun _ => h.raise _) fun _ => .ite (fun _ => h.endTimeout) fun _ => h.processResponse
  | ptmo => exact .ite (fun _ => h.raise _) fun _ => h.endTimeout
  | rd16 _ d0 d1 _ => exact h.writeDecode (.ok (.scaled16, _))
  | rd32 _ d0 d1 d2 d3 _ => exact h.writeDecode (.ok (.int32, _))

/-- A status register is a field of the block or a byte of the frame; from `FLEN` on it is the byte given (log entry 4). -/
theorem statusRegister (h : s.SameButStale t) (any : Byte) (n : Nat) :
    statusRegister t any n = statusRegister s any n := by
  by_cases hfb : 64 ≤ n ∧ n < 64 + s.cfg.frameMax
  · obtain ⟨i, rfl⟩ := Nat.exists_eq_add_of_le hfb.1
    have hi : i < s.cfg.frameMax := by omega
    rw [statusRegister_fbyte s any hi, statusRegister_fbyte t any (by rw [h.cfg]; exact hi), h.frame, h.flen]
  · obtain ⟨m, rfl, -⟩ := h.exists_fb
    simp [Machine.statusRegister, statusWord, hfb]

theorem read (h : s.SameButStale t) (n : Nat) :
    { s with
      rd := s.rd ++ [Machine.statusRegister s (Config.anyByte s.freeCtr) n]
      freeCtr := s.freeCtr + 1 }.SameButStale
    { t with
      rd := t.rd ++ [Machine.statusRegister t (Config.anyByte t.freeCtr) n]
      freeCtr := t.freeCtr + 1 } :=
  ⟨h.cfg, h.tx, h.evt, by rw [h.rd, h.freeCtr, h.statusRegister], h.pending, congrArg (· + 1) h.freeCtr, h.blk, h.valid⟩

theorem runWord (h : s.SameButStale t) {w : U16} {s' : State} (hs : runWord w s = .next s') :
    ∃ t', runWord w t = .next t' ∧ s'.SameButStale t' := by
  rcases decodeWord_cases w with ⟨e, he⟩ | ⟨i, hi⟩
  · rw [runWord_error he] at hs ⊢
    cases hs
    exact ⟨_, rfl, h.raise _⟩
  · rw [runWord_ok hi, exec_eq_whenRunning] at hs ⊢
    rcases whenRunning_cases hs with ⟨hf, rfl⟩ | ⟨hf, rfl⟩
    · exact ⟨t, whenRunning_of_fault (h.fault.trans hf) _, h⟩
    · exact ⟨_, whenRunning_of_running (h.fault.trans hf) _, h.work i⟩

end State.SameButStale

/-- Settles O54: the two steps carry out the same act of the host, and each act keeps the two states alike. -/
theorem staleBytesNeverReachAResult : Obligations.StaleBytesNeverReachAResult := by
  unfold Obligations.StaleBytesNeverReachAResult
  intro s t s' h hs
  rcases step_cases hs with ⟨hp, rfl⟩ | ⟨q, hp, rfl⟩ | ⟨n, q, hp, rfl⟩ | ⟨w, q, hp, hw⟩
  · exact ⟨t, step_nil (h.pending.trans hp), h⟩
  · exact ⟨_, step_cons (h.pending.trans hp), (h.dequeue q).pulseReset⟩
  · exact ⟨_, step_cons (h.pending.trans hp), (h.dequeue q).read n⟩
  · rw [step_cons (h.pending.trans hp)]
    exact (h.dequeue q).runWord hw

end Sys2Proof.Machine
end

section
/-! PROOFS. The statements of spec/20_memory.md: the cells an instruction stores to (rules R31, R36), the idempotent commands
(R35), and words issued one after another (R39). -/

namespace Sys2Proof.Machine

/-! ### The cells outside the store -/

/-- An instruction that does not write `FB` leaves every cell of it. -/
theorem read_work_of_fb_not_written {i : Instr} (h : .fb ∉ writes i) (s : State) (a : Nat) :
    Memory.read (work i s).blk.fb a = Memory.read s.blk.fb a :=
  (work_changesOnly s i .fb h).2 a

theorem State.raise_fb (s : State) (c : Fcause) : (s.raise c).blk.fb = s.blk.fb :=
  (s.raise_changesOnly c .fb (by decide)).1

theorem read_work_of_not_stored {i : Instr} {s : State} {a : Nat} (h : a ∉ storedCells i s) :
    Memory.read (work i s).blk.fb a = Memory.read s.blk.fb a := by
  cases i with
  | fpush b =>
    have hne : a ≠ s.blk.flen := List.ne_of_not_mem_cons h
    rw [work]
    split
    · rw [State.raise_fb]
    · exact s.read_append_other b hne
  | capp =>
    have hfirst : a ≠ s.blk.flen := List.ne_of_not_mem_cons h
    have hsecond : a ≠ s.blk.flen + 1 := List.ne_of_not_mem_cons (List.not_mem_of_not_mem_cons h)
    rw [work]
    split
    · rw [State.raise_fb]
    · exact ((s.append _).read_append_other _ hsecond).trans (s.read_append_other _ hfirst)
  | _ => exact read_work_of_fb_not_written (by simp [writes]) s a

/-- Settles O50: a faulted block keeps its buffer, and a running one writes the buffer by appends alone. -/
theorem cellsOutsideTheStoreReadAsBefore : Obligations.CellsOutsideTheStoreReadAsBefore := by
  unfold Obligations.CellsOutsideTheStoreReadAsBefore
  intro i s t a h ha
  rcases exec_cases h with ⟨-, rfl⟩ | ⟨-, rfl⟩
  · rfl
  · exact read_work_of_not_stored ha

/-! ### Commands issued twice -/

theorem State.raise_raise (s : State) (c : Fcause) : (s.raise c).raise c = s.raise c :=
  State.raise_of_fault (by unfold State.raise; split <;> simp [*]) c

theorem State.writeDecode_writeDecode (s : State) (r : Except FrameError Reading) :
    (s.writeDecode r).writeDecode r = s.writeDecode r := by
  cases r with
  | ok | error => rfl

theorem State.frame_writeDecode (s : State) (r : Except FrameError Reading) : (s.writeDecode r).frame = s.frame := by
  rw [State.writeDecode_frame]
  rfl

/-- The writes of `CVFY` touch nothing of what they are computed from. -/
theorem State.writeVerify_writeVerify (s : State) : s.writeVerify.writeVerify = s.writeVerify := by
  rw [State.writeVerify_eq s]
  split
  case isTrue h => exact (State.writeVerify_eq _).trans (if_pos h)
  case isFalse h => exact (State.writeVerify_eq _).trans (if_neg h)

theorem work_cgen_of_lt {s : State} {n : Byte} (h : s.blk.flen < byteCount n) :
    work (.cgen n) s = s.raise .range := if_pos h

theorem work_cgen_of_not_lt {s : State} {n : Byte} (h : ¬ s.blk.flen < byteCount n) :
    work (.cgen n) s = { s with blk.acc := crc16 (s.frameTake (byteCount n)) } := if_neg h

/-- Neither a fault of `CGEN` nor its result reaches `FLEN` or the frame, so the second takes the branch of the first. -/
theorem work_cgen_work_cgen (n : Byte) (s : State) : work (.cgen n) (work (.cgen n) s) = work (.cgen n) s := by
  by_cases h : s.blk.flen < byteCount n
  · have hflen : (s.raise .range).blk.flen = s.blk.flen := s.raise_changesOnly _ .flen (by decide)
    rw [work_cgen_of_lt h, work_cgen_of_lt (hflen ▸ h), State.raise_raise]
  · rw [work_cgen_of_not_lt h]
    exact work_cgen_of_not_lt h

/-- A command whose work done twice is the work done once answers itself when it is issued again, faulted or not. -/
theorem exec_again_of_work_idempotent {i : Instr} (hwork : ∀ s, work i (work i s) = work i s) {s t : State}
    (h : exec i s = .next t) : exec i t = .next t := by
  rcases exec_cases h with ⟨hf, rfl⟩ | ⟨-, rfl⟩
  · exact h
  · rw [exec_eq_whenRunning, whenRunning, hwork, ite_self]

/-- Settles O51: none of the five commands writes what its own work reads. -/
theorem repeatingAnIdempotentCommandChangesNothing : Obligations.RepeatingAnIdempotentCommandChangesNothing := by
  unfold Obligations.RepeatingAnIdempotentCommandChangesNothing
  intro i s t hi
  refine exec_again_of_work_idempotent fun u => ?_
  rcases hi with rfl | rfl | ⟨n, rfl⟩ | rfl | rfl
  · rfl
  · rfl
  · exact work_cgen_work_cgen n u
  · exact u.writeVerify_writeVerify
  · simp only [work, State.frame_writeDecode, State.writeDecode_writeDecode]

/-! ### Words in order -/

/-- The state with another list of what the host does next. -/
def State.withPending (s : State) (q : List HostAct) : State := { s with pending := q }

theorem State.withPending_ite {p : Prop} [Decidable p] (s t : State) (q : List HostAct) :
    (if p then s else t).withPending q = if p then s.withPending q else t.withPending q :=
  apply_ite (·.withPending q) p s t

theorem State.raise_withPending (s : State) (c : Fcause) (q : List HostAct) :
    (s.withPending q).raise c = (s.raise c).withPending q := by
  unfold State.raise
  rw [State.withPending_ite]
  rfl

theorem State.writeDecode_withPending (s : State) (r : Except FrameError Reading) (q : List HostAct) :
    (s.withPending q).writeDecode r = (s.writeDecode r).withPending q := by
  cases r with
  | ok | error => rfl

theorem State.writeVerify_withPending (s : State) (q : List HostAct) :
    (s.withPending q).writeVerify = s.writeVerify.withPending q := by
  unfold State.writeVerify
  rw [State.withPending_ite]
  rfl

theorem State.endCycle_withPending (s : State) (v : Bool) (q : List HostAct) :
    (s.withPending q).endCycle v = (s.endCycle v).withPending q := by
  cases v with
  | true | false => rfl

theorem State.frame_withPending (s : State) (q : List HostAct) : (s.withPending q).frame = s.frame := rfl

theorem State.publish_withPending (s : State) (r : Except FrameError Reading) (v : Bool) (q : List HostAct) :
    (s.withPending q).publish r v = (s.publish r v).withPending q := rfl

theorem State.processResponse_withPending (s : State) (q : List HostAct) :
    (s.withPending q).processResponse = s.processResponse.withPending q := by
  simp only [State.processResponse, State.frame_withPending, State.writeDecode_withPending,
    State.publish_withPending, State.writeVerify_withPending, State.endCycle_withPending]

/-- A command that can fault does the same under any list of the host if its work does. -/
theorem State.ite_raise_withPending {s t t' : State} {p : Prop} [Decidable p] {c : Fcause} {q : List HostAct}
    (h : t' = t.withPending q) :
    (if p then (s.withPending q).raise c else t') = (if p then s.raise c else t).withPending q := by
  rw [h, State.withPending_ite, State.raise_withPending]

/-- No instruction looks at what the host does next (rule R39). -/
theorem work_withPending (i : Instr) (s : State) (q : List HostAct) :
    work i (s.withPending q) = (work i s).withPending q := by
  cases i with
  | fclr | cinit | cupd | rd16 | rd32 => rfl
  | fpush | cgen | capp | preq | ptmo => exact State.ite_raise_withPending rfl
  | cvfy => exact s.writeVerify_withPending q
  | fdec => exact s.writeDecode_withPending _ q
  | prsp =>
    refine State.ite_raise_withPending ?_
    rw [State.withPending_ite, State.processResponse_withPending]
    rfl

theorem exec_withPending {i : Instr} {s t : State} (h : exec i s = .next t) (q : List HostAct) :
    exec i (s.withPending q) = .next (t.withPending q) := by
  rw [exec_eq_whenRunning] at h ⊢
  rcases whenRunning_cases h with ⟨hf, rfl⟩ | ⟨hr, rfl⟩
  · exact whenRunning_of_fault (s := t.withPending q) hf _
  · rw [← work_withPending]
    exact whenRunning_of_running (s := s.withPending q) hr _

theorem exec_pending {i : Instr} {s t : State} (h : exec i s = .next t) : t.pending = s.pending :=
  instructionsWriteOnlyWhatTheirRulesName i s t .pending h (by cases i <;> simp [writes])

/-- A command about to be issued changes nothing of a later sequence but the state it starts from. -/
theorem exec_issue {i : Instr} {s t : State} (h : exec i s = .next t) (is : List Instr) :
    exec i (s.issue is) = .next (t.issue is) := by
  rw [State.issue, State.issue, exec_pending h]
  exact exec_withPending h _

theorem decodeWord_of_encode {i : Instr} {w : U16} (h : encode i = .word w) : decodeWord w = .ok i := by
  cases i with
  | rd16 | rd32 => cases h
  | _ =>
    cases h
    exact decodeWord_cmdWord _ _

/-- The first command of a sequence is the word the host presents, and the next step executes it. -/
theorem step_issue_cons {i : Instr} {w : U16} (h : encode i = .word w) (is : List Instr) (s : State) :
    step (s.issue (i :: is)) = exec i (s.issue is) := by
  have hpresent : s.issue (i :: is) = (s.issue is).present w := by
    simp [State.issue, State.present, actsOf, h]
  rw [hpresent, step_present, runWord_ok (decodeWord_of_encode h)]

theorem run_succ_of_step {M : Host.Core} {s t : M.State} (h : M.step s = .next t) (k : Nat) :
    M.run (k + 1) s = M.run k t := by
  rw [Host.Core.run, h]

theorem execAll_cons {i : Instr} {s t : State} (h : exec i s = .next t) (is : List Instr) :
    execAll (i :: is) s = execAll is t := by
  rw [execAll, h]

/-- Settles O6, by induction on the list: the first word runs its command and leaves the rest issued from where it ends. -/
theorem issuedWordsRunInOrder : Obligations.IssuedWordsRunInOrder := by
  unfold Obligations.IssuedWordsRunInOrder
  intro is
  induction is with
  | nil => exact fun s _ => rfl
  | cons i is ih =>
    intro s hwords
    obtain ⟨w, hw⟩ := hwords i List.mem_cons_self
    obtain ⟨t, ht⟩ := exec_next i s
    have hstep : step (s.issue (i :: is)) = .next (t.issue is) := (step_issue_cons hw is s).trans (exec_issue ht is)
    rw [List.length_cons, execAll_cons ht]
    exact (run_succ_of_step hstep _).trans (ih t fun j hj => hwords j (List.mem_cons_of_mem i hj))

end Sys2Proof.Machine
end

section
/-! PROOFS. The statements of spec/30_encoding.md: the decoder and the encoder (rules R45 to R48, R51), trailers and request
rows (R52, R53), the output ports (R57), and loading a frame (R59). -/

namespace Sys2Proof.Machine

/-! ### Decoding and encoding -/

theorem decode_word_eq_ok_iff {w : U16} {i : Instr} : decode (.word w) = .ok i ↔ decodeWord w = .ok i := by
  rw [decode]
  cases decodeWord w with
  | ok | error => simp [Except.mapError]

theorem decode_frame_eq_ok_iff {f : List Byte} {i : Instr} : decode (.frame f) = .ok i ↔ decodeFrame f = .ok i := by
  rw [decode]
  cases decodeFrame f with
  | ok | error => simp [Except.mapError]

theorem decodeFrame_of_encode {i : Instr} {f : List Byte} (h : encode i = .frame f) : decodeFrame f = .ok i := by
  cases i with
  | rd16 addr d0 d1 rest =>
    cases h
    exact decodeFrame_rd16 addr d0 d1 rest
  | rd32 addr d0 d1 d2 d3 rest =>
    cases h
    exact decodeFrame_rd32 addr d0 d1 d2 d3 rest
  | _ => cases h

/-- Settles O13: an instruction encodes to a command word or to a frame, and each decodes to it. -/
theorem decodeOfEncodeIsTheInstruction : Obligations.DecodeOfEncodeIsTheInstruction := by
  unfold Obligations.DecodeOfEncodeIsTheInstruction
  intro i
  match h : encode i with
  | .word w => exact decode_word_eq_ok_iff.mpr (decodeWord_of_encode h)
  | .frame f => exact decode_frame_eq_ok_iff.mpr (decodeFrame_of_encode h)

/-- What an operation code and an operand decode to encodes to the word of the two, row by row of rule R46. -/
theorem encode_of_decodeOp {op : Nat} {imm : Byte} {i : Instr} (h : decodeOp op imm = .ok i) :
    encode i = .word (cmdWord (BitVec.ofNat 4 op) imm) := by
  unfold decodeOp at h
  split at h
  case h_2 | h_4 | h_5 =>
    cases h
    rfl
  case h_12 => cases h
  all_goals
    obtain ⟨rfl, rfl⟩ := noOperand_ok h
    rfl

theorem encode_of_decodeWord {w : U16} {i : Instr} (h : decodeWord w = .ok i) : encode i = .word w := by
  obtain ⟨hrsv, hop⟩ := decodeWord_ok h
  rw [encode_of_decodeOp hop, BitVec.ofNat_toNat, BitVec.setWidth_eq, cmdWord_fields hrsv]

/-- The data that a byte-count selects are kept whole in the form (rule R51). -/
theorem encode_of_decodeData {addr bc : Byte} {data : List Byte} {i : Instr} (h : decodeData addr bc data = .ok i) :
    encode i = .frame (addr :: funcRead :: bc :: data) := by
  unfold decodeData at h
  split at h
  case isTrue hbc =>
    subst hbc
    split at h <;> cases h
    rfl
  case isFalse =>
    split at h
    case isTrue hbc =>
      subst hbc
      split at h <;> cases h
      rfl
    case isFalse => cases h

theorem encode_of_decodeFrame {f : List Byte} {i : Instr} (h : decodeFrame f = .ok i) : encode i = .frame f := by
  match f with
  | [] | [_] => cases h
  | addr :: fn :: tail =>
    by_cases hfn : fn = funcRead
    · subst hfn
      match tail with
      | [] => cases h
      | bc :: data => exact encode_of_decodeData h
    · simp [decodeFrame, hfn] at h

/-- Settles O14: neither decoder drops anything of a code, so the encoder finds all of it in the instruction. -/
theorem encodeOfDecodeIsTheCode : Obligations.EncodeOfDecodeIsTheCode := by
  unfold Obligations.EncodeOfDecodeIsTheCode
  intro c i h
  cases c with
  | word w => exact encode_of_decodeWord (decode_word_eq_ok_iff.mp h)
  | frame f => exact encode_of_decodeFrame (decode_frame_eq_ok_iff.mp h)

/-- Settles O15: each word and each frame is what its instruction encodes to. -/
theorem sampleWordsDecodeAsListed : Obligations.SampleWordsDecodeAsListed := by
  unfold Obligations.SampleWordsDecodeAsListed
  exact ⟨decodeWord_of_encode rfl, decodeWord_of_encode rfl, decodeWord_of_encode rfl, decodeWord_of_encode rfl,
    decodeWord_of_encode rfl, decodeWord_of_encode rfl, decodeWord_of_encode rfl, decodeWord_of_encode rfl,
    decodeWord_of_encode rfl, decodeWord_of_encode rfl, decodeWord_of_encode rfl, decodeFrame_of_encode rfl,
    decodeFrame_of_encode rfl⟩

/-! ### The legal words -/

/-- The operation codes that take an operand (rule R46). -/
def operandOps : List (BitVec 4) := [0x2, 0x4, 0x5]

/-- The operation codes that take none (rule R46). -/
def plainOps : List (BitVec 4) := [0x1, 0x3, 0x6, 0x7, 0x8, 0x9, 0xA, 0xB]

/-- The operation codes and operands that stand for a command. -/
def LegalFields (op : BitVec 4) (imm : Byte) : Prop := op ∈ operandOps ∨ (op ∈ plainOps ∧ imm = 0)

theorem noOperand_isOk_iff {imm : Byte} {i : Instr} : (∃ j, noOperand imm i = .ok j) ↔ imm = 0 :=
  ⟨fun ⟨_, h⟩ => (noOperand_ok h).1, fun h => ⟨i, if_pos h⟩⟩

theorem decodeOp_isOk_iff {op : BitVec 4} {imm : Byte} :
    (∃ i, decodeOp op.toNat imm = .ok i) ↔ LegalFields op imm := by
  obtain ⟨⟨n, hn⟩⟩ := op
  interval_cases n <;> simp [decodeOp, LegalFields, operandOps, plainOps, noOperand_isOk_iff]

theorem decodeWord_isOk_iff {w : U16} :
    (∃ i, decodeWord w = .ok i) ↔ rsvField w = 0 ∧ LegalFields (opField w) (immField w) := by
  by_cases h : rsvField w = 0
  · simp [decodeWord, h, decodeOp_isOk_iff]
  · rw [decodeWord_of_rsv h]
    exact iff_of_false (by simp) fun hw => h hw.1

theorem decodeWord_isError_iff {w : U16} : (∃ e, decodeWord w = .error e) ↔ ¬ ∃ i, decodeWord w = .ok i := by
  cases decodeWord w with
  | ok | error => simp

/-- The table of illegal words names every operation code that is not a command, and no other. -/
theorem illegalByRule_iff {w : U16} :
    IllegalByRule w ↔ ¬ (rsvField w = 0 ∧ LegalFields (opField w) (immField w)) := by
  have hplain : ∀ op : BitVec 4, op.toNat ∈ [0x1, 0x3, 0x6, 0x7, 0x8, 0x9, 0xA, 0xB] ↔ op ∈ plainOps := by decide
  have hreserved : ∀ op : BitVec 4, op = 0 ∨ 0xC ≤ op.toNat ↔ op ∉ operandOps ∧ op ∉ plainOps := by decide
  have hapart : ∀ op ∈ plainOps, op ∉ operandOps := by decide
  have hreserved := hreserved (opField w)
  have hapart := hapart (opField w)
  rw [IllegalByRule, hplain, LegalFields]
  tauto

/-- Settles O7: the illegal words are those without the fields of a command, and the check of the word comes first. -/
theorem illegalWordsAreThoseOfTheTable : Obligations.IllegalWordsAreThoseOfTheTable := by
  unfold Obligations.IllegalWordsAreThoseOfTheTable
  have hiff (w : U16) : (∃ e, decodeWord w = .error e) ↔ IllegalByRule w := by
    rw [decodeWord_isError_iff, decodeWord_isOk_iff, illegalByRule_iff]
  refine ⟨hiff, fun s w hs hw => ?_, .inl (by decide), .inr (.inl (by decide))⟩
  obtain ⟨e, he⟩ := (hiff w).mpr hw
  rw [step_present, runWord_error he, State.raise_of_running hs]

/-- Every byte. -/
def allBytes : List Byte := (List.finRange 256).map BitVec.ofFin

/-- The fields of the legal words. -/
def legalFieldPairs : List (BitVec 4 × Byte) := plainOps ×ˢ [0] ++ operandOps ×ˢ allBytes

/-- The legal words. -/
def legalWords : List U16 := legalFieldPairs.map fun p => cmdWord p.1 p.2

theorem mem_allBytes (b : Byte) : b ∈ allBytes := List.mem_map.mpr ⟨b.toFin, List.mem_finRange _, rfl⟩

theorem allBytes_nodup : allBytes.Nodup :=
  (List.nodup_finRange 256).map fun _ _ h => BitVec.ofFin.inj h

theorem mem_legalFieldPairs {op : BitVec 4} {imm : Byte} : (op, imm) ∈ legalFieldPairs ↔ LegalFields op imm := by
  simp [legalFieldPairs, LegalFields, mem_allBytes, or_comm]

theorem legalFieldPairs_nodup : legalFieldPairs.Nodup := by
  have hplain : (plainOps ×ˢ [(0 : Byte)]).Nodup := .product (by decide) (List.nodup_singleton _)
  have hoperand : (operandOps ×ˢ allBytes).Nodup := .product (by decide) allBytes_nodup
  have happart : ∀ op ∈ plainOps, op ∉ operandOps := by decide
  refine hplain.append hoperand fun p h h' => ?_
  exact happart p.1 (List.mem_product.mp h).1 (List.mem_product.mp h').1

theorem cmdWord_injective : Function.Injective fun p : BitVec 4 × Byte => cmdWord p.1 p.2 := by
  intro p q h
  have hop := congrArg opField h
  have himm := congrArg immField h
  simp only [opField_cmdWord, immField_cmdWord] at hop himm
  exact Prod.ext hop himm

theorem mem_legalWords {w : U16} : w ∈ legalWords ↔ rsvField w = 0 ∧ LegalFields (opField w) (immField w) := by
  rw [legalWords, List.mem_map]
  constructor
  · rintro ⟨p, hp, rfl⟩
    simpa using mem_legalFieldPairs.mp hp
  · rintro ⟨hrsv, hlegal⟩
    exact ⟨_, mem_legalFieldPairs.mpr hlegal, cmdWord_fields hrsv⟩

theorem legalWords_length : legalWords.length = 776 := by
  simp [legalWords, legalFieldPairs, allBytes, plainOps, operandOps]

/-- Settles O8: the words of the legal fields are all different, and no other word decodes. -/
theorem exactlyAsManyWordsAreLegal : Obligations.ExactlyAsManyWordsAreLegal := by
  unfold Obligations.ExactlyAsManyWordsAreLegal
  refine ⟨legalWords, legalFieldPairs_nodup.map cmdWord_injective, legalWords_length, legalWords_length, fun w => ?_⟩
  rw [mem_legalWords, decodeWord_isOk_iff]

/-! ### Trailers and request rows -/

/-- Settles O16: the two bytes side by side are the value, so its number is the high one times 256 plus the low one. -/
theorem trailerIsLowByteFirst : Obligations.TrailerIsLowByteFirst := by
  unfold Obligations.TrailerIsLowByteFirst
  refine fun c => ⟨rfl, trailerValue_trailerBytes c, fun lo hi => ?_⟩
  rw [trailerValue, cat16, BitVec.toNat_append, ← Nat.shiftLeft_add_eq_or_of_lt lo.isLt, Nat.shiftLeft_eq]

theorem crc16_reqTable : crc16 ((reqTable 0).take 6) = 0xCA75 ∧ crc16 ((reqTable 1).take 6) = 0xCAD5 ∧
    crc16 ((reqTable 2).take 6) = 0x0A84 := by
  decide +kernel

/-- Every row of the request table is sealed (rules R52, R68). -/
theorem sealFrame_reqTable (k : Fin 3) : sealFrame ((reqTable k).take 6) = reqTable k := by
  obtain ⟨h0, h1, h2⟩ := crc16_reqTable
  match k with
  | 0 => rw [sealFrame, h0]; decide
  | 1 => rw [sealFrame, h1]; decide
  | 2 => rw [sealFrame, h2]; decide

/-- Settles O17: the bytes stand in the table, and each row is the seal of its first six. -/
theorem requestRowsAreSealed : Obligations.RequestRowsAreSealed := by
  unfold Obligations.RequestRowsAreSealed
  have hhead : ∀ k, (reqTable k).length = 8 ∧ byteAt (reqTable k) 0 = 0x01 ∧ byteAt (reqTable k) 1 = 0x03 := by decide
  refine ⟨fun k => ?_, crc16_reqTable, by decide, by decide, rfl, rfl, rfl⟩
  obtain ⟨hlen, haddr, hfunc⟩ := hhead k
  exact ⟨hlen, haddr, hfunc, sealFrame_reqTable k⟩

/-! ### The output ports -/

/-- One more byte moves the others up by 8 bits. -/
theorem txData_append (f : List Byte) (b : Byte) : txData (f ++ [b]) = (txData f <<< 8) ||| b.setWidth 64 := by
  simp [txData]

theorem extractLsb'_txData_append_last (f : List Byte) (b : Byte) : (txData (f ++ [b])).extractLsb' 0 8 = b := by
  rw [txData_append]
  ext i hi
  have hlt : i < 64 := by omega
  simp [hi, hlt, BitVec.getLsbD_eq_getElem]

theorem extractLsb'_txData_append (f : List Byte) (b : Byte) {k : Nat} (h : k + 16 ≤ 64) :
    (txData (f ++ [b])).extractLsb' (k + 8) 8 = (txData f).extractLsb' k 8 := by
  rw [txData_append]
  ext i hi
  have hlt : k + 8 + i < 64 := by omega
  have hlt' : k + i < 64 := by omega
  have hle : 8 ≤ k + 8 + i := by omega
  have hsub : k + 8 + i - 8 = k + i := by omega
  simp [hlt, hlt', hle, hsub, BitVec.getLsbD_eq_getElem]

/-- Of the last 8 bytes of a frame, each stands on `tx_data` above those that follow it (rule R57). -/
theorem extractLsb'_txData {f : List Byte} {j : Nat} (hj : j < f.length) (h : f.length ≤ j + 8) :
    (txData f).extractLsb' (8 * (f.length - 1 - j)) 8 = byteAt f j := by
  induction f using List.reverseRecOn with
  | nil => cases hj
  | append_singleton f b ih =>
    rw [List.length_append, List.length_singleton] at hj h ⊢
    rcases Nat.lt_succ_iff_lt_or_eq.mp hj with hlt | rfl
    · have hplace : 8 * (f.length + 1 - 1 - j) = 8 * (f.length - 1 - j) + 8 := by omega
      rw [hplace, extractLsb'_txData_append f b (by omega), ih hlt (by omega), byteAt, byteAt,
        List.getD_append _ _ _ _ hlt]
    · simpa [byteAt] using extractLsb'_txData_append_last f b

theorem ReadingKind.rkind_bits (k : ReadingKind) : k.rkind.bits = evtKind k := by
  cases k with
  | scaled16 | int32 => rfl

/-- A cycle publishes a reading at the index polled, or nothing. -/
theorem published_eq_singleton {cfg : Config} {idx : Fin 3} {r : Except FrameError Reading} {v : Bool} {e : Event}
    (h : published cfg idx r v = [e]) : r = .ok (e.kind, e.val) ∧ e.idx = idx := by
  unfold published at h
  split at h
  · split at h <;> cases h
    exact ⟨rfl, rfl⟩
  · cases h

/-- Without a response to process, `PRSP` emits nothing. -/
theorem work_prsp_cases (s : State) : (work .prsp s).evt = s.evt ∨ work .prsp s = s.processResponse := by
  rw [work]
  split
  · exact .inl (s.raise_changesOnly _ .evt (by decide))
  · split
    · exact .inl rfl
    · exact .inr rfl

theorem evtPort_of_exec_prsp {s t : State} {e : Event} (h : exec .prsp s = .next t) (he : t.evt = s.evt ++ [e]) :
    evtPort e = (idxBits s.blk.idx, t.blk.rkind.bits, t.blk.rval) := by
  have hemits : t.evt ≠ s.evt := by simp [he]
  rcases exec_cases h with ⟨-, rfl⟩ | ⟨-, rfl⟩
  · exact absurd rfl hemits
  · rcases work_prsp_cases s with hnone | hresp
    · exact absurd hnone hemits
    · rw [hresp, State.processResponse_eq] at he ⊢
      obtain ⟨hr, hidx⟩ := published_eq_singleton (List.append_cancel_left he)
      simp [evtPort, hidx, hr, ReadingKind.rkind_bits]

/-- Settles O18: a request frame fills `tx_data`, and an event is the reading of the cycle that emitted it, at the index
polled. -/
theorem outputPortsCarryFrameAndEvent : Obligations.OutputPortsCarryFrameAndEvent := by
  unfold Obligations.OutputPortsCarryFrameAndEvent
  refine ⟨fun k j hj => ?_, by decide, fun s t hs hp h => ?_, fun s t e => evtPort_of_exec_prsp, fun e => ?_,
    fun e => rfl⟩
  · have hlen : (reqTable k).length = 8 := by revert k; decide
    have hplace : 56 - 8 * j = 8 * ((reqTable k).length - 1 - j) := by omega
    rw [hplace, extractLsb'_txData (by omega) (by omega)]
  · rw [exec_of_running hs] at h
    cases h
    simp [work, hp]
  · rcases e with ⟨idx, kind, val⟩
    cases kind with
    | scaled16 => exact .inl rfl
    | int32 => exact .inr rfl

/-! ### Loading a frame -/

/-- Appending bytes one after another appends them to the frame in order. -/
theorem State.frame_foldl_append (s : State) (bs : List Byte) : (bs.foldl State.append s).frame = s.frame ++ bs := by
  induction bs generalizing s with
  | nil => simp
  | cons b bs ih => simp [ih]

/-- Appending bytes touches the buffer alone. -/
theorem State.foldl_append_eq (s : State) (bs : List Byte) : bs.foldl State.append s =
    { s with blk.fb := (bs.foldl State.append s).blk.fb, blk.flen := s.blk.flen + bs.length } := by
  induction bs generalizing s with
  | nil => rfl
  | cons b bs ih =>
    rw [List.foldl_cons, ih]
    simp [State.append]
    omega

/-- While the buffer has room, one `FPUSH` for each byte appends them all (rule R121). -/
theorem execAll_map_fpush {s : State} {bs : List Byte} (hs : s.Running) (hroom : s.blk.flen + bs.length ≤ s.cfg.frameMax) :
    execAll (bs.map .fpush) s = .next (bs.foldl State.append s) := by
  induction bs generalizing s with
  | nil => rfl
  | cons b bs ih =>
    rw [List.length_cons] at hroom
    have hfirst : exec (.fpush b) s = .next (s.append b) := by
      rw [exec_of_running hs, work, if_neg (by omega)]
    rw [List.map_cons, execAll_cons hfirst, List.foldl_cons]
    exact ih hs (by simp; omega)

/-- Settles O21: `FCLR` leaves an empty frame, and the pushes append to it. -/
theorem loadingPutsTheBytesInTheFrame : Obligations.LoadingPutsTheBytesInTheFrame := by
  unfold Obligations.LoadingPutsTheBytesInTheFrame
  intro s bs hs hlen
  have hclr : exec .fclr s = .next { s with blk.flen := 0 } := exec_of_running hs .fclr
  refine ⟨bs.foldl State.append { s with blk.flen := 0 }, ?_, ?_, ?_⟩
  · rw [loadFrameCommands, execAll_cons hclr]
    exact execAll_map_fpush hs (by simpa using hlen)
  · rw [State.frame_foldl_append]
    rfl
  · rw [State.foldl_append_eq]
    simp

end Sys2Proof.Machine
end

section
/-! PROOFS. The statements of spec/40_crc_engine.md: the bit and byte steps of the CRC (rules R65, R66), sealing and
verifying a frame (R68, R69, R77, R79), the five commands of the engine (R70 to R74), and streaming against block
computation (R76). -/

namespace Sys2Proof.Machine

/-! ### Bit and byte steps -/

/-- The bits that the polynomial flips. -/
theorem crcPoly_getLsbD : ∀ i < 16, crcPoly.getLsbD i = decide (i = 15 ∨ i = 13 ∨ i = 0) := by decide

/-- Settles O22: the step shifts, and where the bit shifted out is 1 the polynomial flips its three bits. -/
theorem crcBitShiftsAndFlips : Obligations.CrcBitShiftsAndFlips := by
  unfold Obligations.CrcBitShiftsAndFlips
  intro a i hi
  have hshift : (a >>> 1).getLsbD i = (decide (i < 15) && a.getLsbD (i + 1)) := by
    rw [BitVec.getLsbD_ushiftRight, Nat.add_comm]
    by_cases h : i < 15
    · simp [h]
    · simp [h, BitVec.getLsbD_of_ge a (i + 1) (by omega)]
  cases h0 : a.getLsbD 0 with
  | false => rw [crcBit_of_even h0, hshift, Bool.false_and, Bool.xor_false]
  | true => rw [crcBit_of_odd h0, BitVec.getLsbD_xor, hshift, crcPoly_getLsbD i hi, Bool.true_and]

/-- The polynomial goes in for an odd number of the two bits shifted out: twice is not at all. -/
theorem crcBit_xor (a c : U16) : crcBit (a ^^^ c) = crcBit a ^^^ crcBit c := by
  apply BitVec.eq_of_getLsbD_eq
  intro i hi
  rw [BitVec.getLsbD_xor, crcBitShiftsAndFlips _ i hi, crcBitShiftsAndFlips _ i hi, crcBitShiftsAndFlips _ i hi,
    BitVec.getLsbD_xor, BitVec.getLsbD_xor, Bool.and_xor_distrib_left, Bool.and_xor_distrib_right]
  simp only [Bool.xor_assoc, Bool.xor_left_comm]

theorem crcBits_xor (n : Nat) (a c : U16) : crcBits n (a ^^^ c) = crcBits n a ^^^ crcBits n c := by
  induction n generalizing a c with
  | zero => rfl
  | succ n ih => rw [crcBits, crcBit_xor, ih, crcBits, crcBits]

theorem zext16_xor (b d : Byte) : zext16 (b ^^^ d) = zext16 b ^^^ zext16 d := BitVec.setWidth_xor

/-- Settles O23: the bit steps are linear, and the byte goes in by an exclusive-or. -/
theorem crcByteIsLinear : Obligations.CrcByteIsLinear := by
  unfold Obligations.CrcByteIsLinear
  intro a c b d
  have hswap : a ^^^ c ^^^ zext16 (b ^^^ d) = (a ^^^ zext16 b) ^^^ (c ^^^ zext16 d) := by
    rw [zext16_xor]
    ac_rfl
  rw [crcByte, hswap, crcBits_xor, crcByte, crcByte]

/-! ### Sealed frames -/

/-- Settles O24: the trailer clears whatever the bytes before it left. -/
theorem sealedFrameHasZeroResidue : Obligations.SealedFrameHasZeroResidue := by
  unfold Obligations.SealedFrameHasZeroResidue
  intro bs
  rw [sealFrame, crc16_append]
  exact crcFold_trailerBytes _

@[simp] theorem sealFrame_length (bs : List Byte) : (sealFrame bs).length = bs.length + 2 := by
  simp [sealFrame, trailerBytes]

theorem trailerBytes_trailerValue (lo hi : Byte) : trailerBytes (trailerValue lo hi) = [lo, hi] := by
  have hlo : lowByte (trailerValue lo hi) = lo := by
    ext i h
    simp [lowByte, trailerValue, cat16]
    grind
  have hhi : highByte (trailerValue lo hi) = hi := by
    ext i h
    simp [highByte, trailerValue, cat16]
    grind
  rw [trailerBytes, hlo, hhi]

/-- A frame of two bytes or more is some bytes and the two of a trailer. -/
theorem exists_append_two {f : List Byte} (h : 2 ≤ f.length) : ∃ bs lo hi, f = bs ++ [lo, hi] := by
  have hlen : (f.drop (f.length - 2)).length = 2 := by rw [List.length_drop]; omega
  obtain ⟨lo, hi, htail⟩ := List.length_eq_two.mp hlen
  exact ⟨f.take (f.length - 2), lo, hi, by rw [← htail, List.take_append_drop]⟩

/-- A sealed frame is long enough to verify once three bytes were sealed (rule R77). -/
theorem verify_sealFrame (bs : List Byte) : verify (sealFrame bs) = true ↔ 3 ≤ bs.length := by
  by_cases h : 3 ≤ bs.length
  · rw [sealFrame, trailerBytes, verify_append_two _ _ _ h, trailerValue_trailerBytes]
    simp [h]
  · rw [verify_of_short (by rw [sealFrame_length]; omega)]
    simp [h]

/-- A frame that verifies ends in the trailer of the bytes before (rule R69). -/
theorem eq_sealFrame_of_verify {bs : List Byte} {lo hi : Byte} (h : 3 ≤ bs.length)
    (hv : verify (bs ++ [lo, hi]) = true) : bs ++ [lo, hi] = sealFrame bs := by
  rw [verify_append_two _ _ _ h, beq_iff_eq] at hv
  rw [sealFrame, hv, trailerBytes_trailerValue]

theorem verify_eq_true_iff (f : List Byte) : verify f = true ↔ 5 ≤ f.length ∧ ∃ bs, f = sealFrame bs := by
  constructor
  · intro hv
    have hlen : 5 ≤ f.length := by
      by_contra hshort
      rw [verify_of_short (by omega)] at hv
      cases hv
    obtain ⟨bs, lo, hi, rfl⟩ := exists_append_two (f := f) (by omega)
    exact ⟨hlen, bs, eq_sealFrame_of_verify (by simpa using hlen) hv⟩
  · rintro ⟨hlen, bs, rfl⟩
    exact (verify_sealFrame bs).mpr (by simpa using hlen)

/-- Settles O25: a frame that verifies is its bytes but the last two, sealed; and three sealed bytes make five. -/
theorem verifyHoldsExactlyForSealedFrames : Obligations.VerifyHoldsExactlyForSealedFrames := by
  unfold Obligations.VerifyHoldsExactlyForSealedFrames
  refine ⟨verify_eq_true_iff, fun f hf => ?_, verify_sealFrame⟩
  exact (verify_sealFrame _).mpr (by rw [List.length_take]; omega)

/-! ### The words of the engine -/

/-- The fields of a command word at their places (rule R45). -/
theorem cmdWord_eq_or (op : BitVec 4) (imm : Byte) : cmdWord op imm = (op.setWidth 16 <<< 12) ||| imm.setWidth 16 := by
  ext i hi
  simp [cmdWord]
  grind

/-- A reserved field that is not zero makes a word illegal, and so does an operand where the command takes none
(rule R48). -/
theorem illegalWordsFault_of_plainOps {op : BitVec 4} {takesOperand : Bool}
    (hop : takesOperand = false → op ∈ plainOps) : IllegalWordsFault op takesOperand := by
  have hplain : ∀ op ∈ plainOps, op.toNat ∈ [0x1, 0x3, 0x6, 0x7, 0x8, 0x9, 0xA, 0xB] := by decide
  rintro s w hs rfl hbad
  obtain ⟨-, hfault, -⟩ := illegalWordsAreThoseOfTheTable
  refine hfault s w hs ?_
  rcases hbad with hrsv | ⟨htakes, himm⟩
  · exact .inr (.inr (.inl hrsv))
  · exact .inr (.inr (.inr ⟨hplain _ (hop htakes), himm⟩))

/-! ### `CINIT` and `CUPD` -/

/-- Settles O26: the work of `CINIT` is one write of `ACC`. -/
theorem cinitSetsTheInitialValue : Obligations.CinitSetsTheInitialValue := by
  unfold Obligations.CinitSetsTheInitialValue
  exact ⟨decodeWord_of_encode rfl, illegalWordsFault_of_plainOps (by decide), fun s hs => exec_of_running hs .cinit⟩

/-- Settles O27: the work of `CUPD` is one byte step on `ACC`. -/
theorem cupdFoldsOneByte : Obligations.CupdFoldsOneByte := by
  unfold Obligations.CupdFoldsOneByte
  refine ⟨fun b => ?_, illegalWordsFault_of_plainOps (by decide), fun s b hs => exec_of_running hs (.cupd b),
    by decide, by decide⟩
  exact decodeWord_of_encode (congrArg Code.word (cmdWord_eq_or 0x4 b))

/-! ### `CGEN` -/

/-- Within the frame, `CGEN` leaves the CRC of as many bytes of it. -/
theorem exec_cgen_of_le {s : State} (hs : s.Running) {n : Byte} (h : n.toNat ≤ s.blk.flen) :
    exec (.cgen n) s = .next { s with blk.acc := crc16 (s.frame.take n.toNat) } := by
  rw [exec_of_running hs, work_cgen_of_not_lt (Nat.not_lt.mpr h), State.frame_take s h, byteCount]

/-- With the length of the frame, `CGEN` leaves the CRC of the whole of it. -/
theorem exec_cgen_frame {s : State} (hs : s.Running) {n : Byte} (h : n.toNat = s.blk.flen) :
    exec (.cgen n) s = .next { s with blk.acc := crc16 s.frame } := by
  rw [exec_cgen_of_le hs h.le, h, ← State.frame_length, List.take_length]

/-- Settles O28: beyond `FLEN` the check raises `RANGE`; within it the result is the CRC of the bytes counted. -/
theorem cgenComputesThePrefixCrc : Obligations.CgenComputesThePrefixCrc := by
  unfold Obligations.CgenComputesThePrefixCrc
  refine ⟨fun n => ?word, illegalWordsFault_of_plainOps (by decide), fun s n hs h => ?range,
    fun s n hs h => exec_cgen_of_le hs h, fun s hs => ?zero, fun s n bs hs hn hf => ?sealed, fun s hs hf => ?request⟩
  case word => exact decodeWord_of_encode (congrArg Code.word (cmdWord_eq_or 0x5 n))
  case range => rw [exec_of_running hs, work_cgen_of_lt h, State.raise_of_running hs]
  case zero => exact exec_cgen_of_le hs (Nat.zero_le _)
  case sealed => rw [exec_cgen_frame hs hn, hf, sealedFrameHasZeroResidue]
  case request =>
    have hlen : s.blk.flen = 8 := by rw [← State.frame_length, hf]; rfl
    rw [exec_cgen_of_le hs (by rw [hlen]; decide), hf, ← crc16_reqTable.1]
    rfl

/-! ### `CAPP` -/

theorem work_capp_of_full {s : State} (h : s.blk.flen + 2 > s.cfg.frameMax) :
    work .capp s = s.raise .bufOverflow := if_pos h

/-- With room for two bytes, `CAPP` appends the trailer of the frame and leaves its CRC in `ACC`. -/
theorem work_capp_of_room {s : State} (h : s.blk.flen + 2 ≤ s.cfg.frameMax) : work .capp s =
    { (trailerBytes (crc16 s.frame)).foldl State.append s with blk.acc := crc16 s.frame } := if_neg (Nat.not_lt.mpr h)

/-- The bytes of two appends stand at the old `FLEN` and behind it. -/
theorem State.read_append_append (s : State) (b b' : Byte) :
    Memory.read ((s.append b).append b').blk.fb s.blk.flen = b ∧
    Memory.read ((s.append b).append b').blk.fb (s.blk.flen + 1) = b' := by
  constructor
  · rw [State.read_append_other _ _ (Nat.ne_of_lt (Nat.lt_succ_self _))]
    exact Memory.read_write_same _ _ _
  · exact Memory.read_write_same _ _ _

theorem sealFrame_sealFrame (bs : List Byte) : sealFrame (sealFrame bs) = sealFrame bs ++ [0x00, 0x00] := by
  rw [sealFrame, sealedFrameHasZeroResidue]
  rfl

/-- Settles O29: the work of `CAPP` is two appends and a write of `ACC`. -/
theorem cappSealsTheFrame : Obligations.CappSealsTheFrame := by
  unfold Obligations.CappSealsTheFrame
  refine ⟨decodeWord_of_encode rfl, illegalWordsFault_of_plainOps (by decide), fun s hs h => ?full,
    fun s hs h => ?room, rfl, sealFrame_sealFrame, sealFrame_reqTable 0⟩
  case full => rw [exec_of_running hs, work_capp_of_full h, State.raise_of_running hs]
  case room =>
    have hother (a : Nat) (hfirst : a ≠ s.blk.flen) (hsecond : a ≠ s.blk.flen + 1) :
        Memory.read (work .capp s).blk.fb a = Memory.read s.blk.fb a :=
      read_work_of_not_stored (by simp [storedCells, hfirst, hsecond])
    refine ⟨work .capp s, exec_of_running hs .capp, ?_⟩
    rw [work_capp_of_room h] at hother ⊢
    obtain ⟨hlow, hhigh⟩ := s.read_append_append (lowByte (crc16 s.frame)) (highByte (crc16 s.frame))
    exact ⟨rfl, hlow, hhigh, hother, s.frame_foldl_append (trailerBytes (crc16 s.frame))⟩

/-! ### `CVFY` -/

theorem work_cvfy_of_short {s : State} (h : s.blk.flen < 5) : work .cvfy s = { s with blk.vok := false } := if_pos h

theorem work_cvfy_of_long {s : State} (h : 5 ≤ s.blk.flen) : work .cvfy s =
    { s with blk.acc := crc16 (s.frame.take (s.blk.flen - 2)), blk.vok := verify s.frame } := by
  rw [work, State.writeVerify_eq, if_neg (Nat.not_lt.mpr h), State.frame_take s (Nat.sub_le _ _)]

theorem verify_of_long {f : List Byte} (h : 5 ≤ f.length) : verify f =
    decide (crc16 (f.take (f.length - 2)) = cat16 (byteAt f (f.length - 1)) (byteAt f (f.length - 2))) :=
  if_neg (Nat.not_lt.mpr h)

theorem verify_samples : verify [0x01, 0x83, 0x02, 0xC0, 0xF1] = true ∧
    verify [0x01, 0x03, 0x00, 0x07, 0x00, 0x02, 0xCA, 0x75] = false := by
  decide +kernel

/-- Every row of the request table verifies. -/
theorem verify_reqTable (k : Fin 3) : verify (reqTable k) = true := by
  rw [← sealFrame_reqTable, verify_sealFrame]
  revert k
  decide

/-- Settles O30: the work of `CVFY` writes what the validator of rule R69 compares and what it answers. -/
theorem cvfyVerifiesTheFrame : Obligations.CvfyVerifiesTheFrame := by
  unfold Obligations.CvfyVerifiesTheFrame
  refine ⟨decodeWord_of_encode rfl, illegalWordsFault_of_plainOps (by decide), fun s hs h => ?short,
    fun s hs h => ?long, fun s hs => ⟨_, exec_of_running hs .cvfy, s.writeVerify_vok⟩, verify_of_short (by decide),
    verify_samples.1, verify_samples.2, fun s hs hf => ?request⟩
  case short => rw [exec_of_running hs, work_cvfy_of_short h]
  case long =>
    have hv := verify_of_long (f := s.frame) (by rwa [State.frame_length])
    rw [State.frame_length] at hv
    rw [exec_of_running hs, work_cvfy_of_long h, hv]
  case request =>
    have hlen : s.blk.flen = 8 := by rw [← State.frame_length, hf]; rfl
    have hrow : s.frame = reqTable 0 := hf
    rw [exec_of_running hs, work_cvfy_of_long (by omega), hrow, hlen, verify_reqTable, crc16_reqTable.1]

/-! ### Streaming and block computation -/

/-- One `CUPD` for each byte folds the bytes into `ACC` (rule R67). -/
theorem execAll_map_cupd {s : State} (hs : s.Running) (bs : List Byte) :
    execAll (bs.map .cupd) s = .next { s with blk.acc := crcFold s.blk.acc bs } := by
  induction bs generalizing s with
  | nil => rfl
  | cons b bs ih =>
    rw [List.map_cons, execAll_cons (exec_of_running hs (.cupd b))]
    exact ih hs

/-- Commands after others run from where the first end (rule R39). -/
theorem execAll_append {is : List Instr} {s t : State} (h : execAll is s = .next t) (js : List Instr) :
    execAll (is ++ js) s = execAll js t := by
  induction is generalizing s with
  | nil =>
    cases h
    rfl
  | cons i is ih =>
    obtain ⟨u, hu⟩ := exec_next i s
    rw [execAll_cons hu] at h
    rw [List.cons_append, execAll_cons hu, ih h]

/-- Settles O31: both ways fold the bytes from the initial value. -/
theorem streamingAgreesWithBlockCrc : Obligations.StreamingAgreesWithBlockCrc := by
  unfold Obligations.StreamingAgreesWithBlockCrc
  refine ⟨fun s bs hs => ?stream, fun s bs hs hlen => ?block, crc16_append⟩
  case stream =>
    rw [crc16Commands, execAll_cons (exec_of_running hs .cinit)]
    exact execAll_map_cupd (s := { s with blk.acc := crcInit }) hs bs
  case block =>
    obtain ⟨t, hload, hframe, ht⟩ := loadingPutsTheBytesInTheFrame s bs hs hlen
    have hrun : t.Running := by rw [ht]; exact hs
    have hmax : s.cfg.frameMax ≤ 255 := s.cfg.frameMaxParam.property.2
    have hcount : (BitVec.ofNat 8 bs.length).toNat = t.blk.flen := by
      rw [← State.frame_length, hframe, BitVec.toNat_ofNat, Nat.mod_eq_of_lt (by omega)]
    refine ⟨_, (execAll_append hload _).trans (execAll_cons (exec_cgen_frame hrun hcount) []), ?_⟩
    exact congrArg crc16 hframe

end Sys2Proof.Machine
end

section
/-! PROOFS. The statements of spec/41_frame_decoder.md: what `decode` does not examine (rule R90), the command `FDEC` (R86),
and the two forms with the numbers they give (R87, R88, R92). -/

namespace Sys2Proof.Machine

/-! ### Readings and forms -/

/-- A frame is of a form exactly when the form stands for that frame (rule R51). -/
theorem decodeFrame_eq_ok_iff {f : List Byte} {i : Instr} : decodeFrame f = .ok i ↔ encode i = .frame f :=
  ⟨encode_of_decodeFrame, decodeFrame_of_encode⟩

/-- A frame has a reading exactly when a form stands for the frame, and the reading is the form's (rules R51, R85). -/
theorem decodeReading_eq_ok_iff {f : List Byte} {r : Reading} :
    decodeReading f = .ok r ↔ ∃ i, encode i = .frame f ∧ formReading i = some r := by
  simp only [← decodeFrame_eq_ok_iff]
  rcases decodeReading_cases f with ⟨e, hform, hread⟩ | ⟨j, r', hform, hreading, hread⟩
  · simp [hform, hread]
  · simp [hform, hread, hreading]

/-! ### What `decode` does not examine -/

/-- Bytes after the frame of a form fall into the form's `rest`, which its reading does not examine. -/
theorem decodeReading_append {f : List Byte} {r : Reading} (h : decodeReading f = .ok r) (g : List Byte) :
    decodeReading (f ++ g) = .ok r := by
  obtain ⟨i, hf, hr⟩ := decodeReading_eq_ok_iff.mp h
  refine decodeReading_eq_ok_iff.mpr ?_
  match i, hr with
  | .rd16 a d0 d1 rest, rfl =>
    cases hf
    exact ⟨.rd16 a d0 d1 (rest ++ g), rfl, rfl⟩
  | .rd32 a d0 d1 d2 d3 rest, rfl =>
    cases hf
    exact ⟨.rd32 a d0 d1 d2 d3 (rest ++ g), rfl, rfl⟩

/-- Header and data are all that a reading needs: the form with an empty `rest` has the same reading. -/
theorem decodeReading_take {f : List Byte} {kind : ReadingKind} {v : U32} (h : decodeReading f = .ok (kind, v)) :
    decodeReading (f.take (if kind = .scaled16 then 5 else 7)) = .ok (kind, v) := by
  obtain ⟨i, hf, hr⟩ := decodeReading_eq_ok_iff.mp h
  refine decodeReading_eq_ok_iff.mpr ?_
  match i, hr with
  | .rd16 a d0 d1 _, rfl =>
    cases hf
    exact ⟨.rd16 a d0 d1 [], rfl, rfl⟩
  | .rd32 a d0 d1 d2 d3 _, rfl =>
    cases hf
    exact ⟨.rd32 a d0 d1 d2 d3 [], rfl, rfl⟩

/-- Settles O33: the checks read bytes 1 and 2 and the length, and a reading is that of a form, whatever its `rest`. -/
theorem decodeIgnoresAddressAndTrailer : Obligations.DecodeIgnoresAddressAndTrailer := by
  unfold Obligations.DecodeIgnoresAddressAndTrailer
  refine ⟨fun a a' f => ?address, fun f g r h => decodeReading_append h g, fun f kind v h => decodeReading_take h,
    fun a f => ?exception⟩
  case address => rfl
  case exception =>
    have hlen : ¬ (a :: 0x83 :: f).length < 2 := by simp
    have hfunc : byteAt (a :: 0x83 :: f) 1 ≠ 0x03 := by simp [byteAt]
    rw [decodeReading_eq, if_neg hlen, if_pos hfunc]

/-! ### `FDEC` -/

theorem exec_fdec {s : State} (hs : s.Running) {r : Except FrameError Reading} (h : decodeReading s.frame = r) :
    exec .fdec s = .next (s.writeDecode r) := by
  rw [exec_of_running hs, work, h]

/-- A scaled reading stands for its register divided by 10 (rules R87, R93). -/
theorem readingValue_scaled16 (reg : U16) : readingValue .scaled16 (zext32 reg) = (reg.toNat : Rat) / 10 := by
  rw [readingValue, zext32, BitVec.toNat_setWidth_of_le (by decide)]

/-- The value of the worked example of rules R86 and R87. -/
theorem readingValue_scaled16_example : readingValue .scaled16 (zext32 0x092A) = 2346 / 10 :=
  readingValue_scaled16 0x092A

/-- Settles O34: the work of `FDEC` is one write of the decoder registers, with what `decode` gives for the frame. -/
theorem fdecWritesTheDecoderRegisters : Obligations.FdecWritesTheDecoderRegisters := by
  unfold Obligations.FdecWritesTheDecoderRegisters
  refine ⟨decodeWord_of_encode rfl, illegalWordsFault_of_plainOps (by decide), fun s kind v hs h => exec_fdec hs h,
    fun s e hs h => exec_fdec hs h, fun s hs hlen => ?empty, fun s hs hf => ?workedExample, readingValue_scaled16_example⟩
  case empty =>
    have hf : s.frame = [] := List.length_eq_zero_iff.mp (by rw [State.frame_length, hlen])
    exact exec_fdec hs (r := .error .unsupportedFunction) (by rw [hf]; rfl)
  case workedExample => exact exec_fdec hs (r := .ok (.scaled16, 0x0000092A)) (by rw [hf]; decide)

/-! ### The numbers of the forms -/

/-- Two vectors side by side, as a number: the first one counts in units of what the second can hold (rule R5). -/
theorem toNat_append_eq_add {m n : Nat} (x : BitVec m) (y : BitVec n) : (x ++ y).toNat = x.toNat * 2 ^ n + y.toNat := by
  rw [BitVec.toNat_append, ← Nat.shiftLeft_add_eq_or_of_lt y.isLt, Nat.shiftLeft_eq]

/-- `as_i32` is two's complement, as Lean's bit vectors have it (rules R6, R92). -/
theorem asI32_eq_toInt (v : U32) : asI32 v = v.toInt := by
  rw [asI32, BitVec.toInt_eq_toNat_cond]
  split <;> split <;> omega

/-! ### Form `RD16` -/

/-- The checks of rule R89 that lead to form `RD16`. -/
theorem decodeReading_of_header16 {f : List Byte} (hfunc : byteAt f 1 = 0x03) (hcount : byteAt f 2 = 0x02)
    (hlen : 5 ≤ f.length) : decodeReading f = .ok (.scaled16, zext32 (cat16 (byteAt f 3) (byteAt f 4))) := by
  rw [decodeReading_eq, if_neg (by omega), if_neg (not_not.mpr hfunc), if_neg (by omega), if_pos hcount,
    if_neg (by omega)]

/-- When form `RD16` is selected (rule R87). -/
theorem exists_decodeFrame_rd16_iff {f : List Byte} : (∃ a d0 d1 rest, decodeFrame f = .ok (.rd16 a d0 d1 rest)) ↔
    byteAt f 1 = 0x03 ∧ byteAt f 2 = 0x02 ∧ 5 ≤ f.length := by
  constructor
  · rintro ⟨a, d0, d1, rest, h⟩
    cases decodeFrame_eq_ok_iff.mp h
    exact ⟨rfl, rfl, Nat.le_add_left 5 rest.length⟩
  · rintro ⟨hfunc, hcount, hlen⟩
    obtain ⟨i, hf, hr⟩ := decodeReading_eq_ok_iff.mp (decodeReading_of_header16 hfunc hcount hlen)
    match i, hr with
    | .rd16 a d0 d1 rest, _ => exact ⟨a, d0, d1, rest, decodeFrame_eq_ok_iff.mpr hf⟩

/-- Settles O35: a frame of the form is its header, its two data bytes and the rest, and the value of the reading is that
of the register. -/
theorem rd16GivesTheScaledRegister : Obligations.Rd16GivesTheScaledRegister := by
  unfold Obligations.Rd16GivesTheScaledRegister
  refine ⟨fun f => exists_decodeFrame_rd16_iff, fun f rest a d0 d1 h => ?data,
    fun s a d0 d1 rest hs => exec_of_running hs (.rd16 a d0 d1 rest), readingValue_scaled16,
    fun d0 d1 => ⟨toNat_append_eq_add d0 d1, extractLsb'_setWidth_high (cat16 d0 d1) (by decide)⟩,
    ?zero, readingValue_scaled16 0xFFFF, readingValue_scaled16_example⟩
  case data =>
    cases decodeFrame_eq_ok_iff.mp h
    exact ⟨rfl, rfl⟩
  case zero => exact (readingValue_scaled16 0).trans (zero_div 10)

/-! ### Form `RD32` -/

/-- The checks of rule R89 that lead to form `RD32`. -/
theorem decodeReading_of_header32 {f : List Byte} (hfunc : byteAt f 1 = 0x03) (hcount : byteAt f 2 = 0x04)
    (hlen : 7 ≤ f.length) : decodeReading f =
      .ok (.int32, cat32 (cat16 (byteAt f 3) (byteAt f 4)) (cat16 (byteAt f 5) (byteAt f 6))) := by
  have hnot16 : byteAt f 2 ≠ 0x02 := by rw [hcount]; decide
  rw [decodeReading_eq, if_neg (by omega), if_neg (not_not.mpr hfunc), if_neg (by omega), if_neg hnot16, if_pos hcount,
    if_neg (by omega)]

/-- When form `RD32` is selected (rule R88). -/
theorem exists_decodeFrame_rd32_iff {f : List Byte} :
    (∃ a d0 d1 d2 d3 rest, decodeFrame f = .ok (.rd32 a d0 d1 d2 d3 rest)) ↔
    byteAt f 1 = 0x03 ∧ byteAt f 2 = 0x04 ∧ 7 ≤ f.length := by
  constructor
  · rintro ⟨a, d0, d1, d2, d3, rest, h⟩
    cases decodeFrame_eq_ok_iff.mp h
    exact ⟨rfl, rfl, Nat.le_add_left 7 rest.length⟩
  · rintro ⟨hfunc, hcount, hlen⟩
    obtain ⟨i, hf, hr⟩ := decodeReading_eq_ok_iff.mp (decodeReading_of_header32 hfunc hcount hlen)
    match i, hr with
    | .rd32 a d0 d1 d2 d3 rest, _ => exact ⟨a, d0, d1, d2, d3, rest, decodeFrame_eq_ok_iff.mpr hf⟩

/-- A signed reading is the value in two's complement, within the range of rule R92. -/
theorem readingValue_int32 (v : U32) :
    readingValue .int32 v = (v.toInt : Rat) ∧ -2147483648 ≤ asI32 v ∧ asI32 v ≤ 2147483647 := by
  rw [readingValue, asI32_eq_toInt]
  exact ⟨rfl, v.le_toInt, Int.le_of_lt_add_one v.toInt_lt⟩

/-- Settles O36: a frame of the form is its header, its four data bytes and the rest, and `as_i32` is two's complement. -/
theorem rd32GivesTheCombinedPair : Obligations.Rd32GivesTheCombinedPair := by
  unfold Obligations.Rd32GivesTheCombinedPair
  refine ⟨fun f => exists_decodeFrame_rd32_iff, fun f rest a d0 d1 d2 d3 h => ?data,
    fun s a d0 d1 d2 d3 rest hs => exec_of_running hs (.rd32 a d0 d1 d2 d3 rest),
    fun hi lo => toNat_append_eq_add hi lo, readingValue_int32, ?examples⟩
  case data =>
    cases decodeFrame_eq_ok_iff.mp h
    exact ⟨rfl, rfl, rfl, rfl⟩
  case examples => decide

end Sys2Proof.Machine
end

section
/-! PROOFS. The statements of spec/42_poll_sequencer.md: the three commands of the Poll Sequencer (rules R102 to R104, R108),
what moves its state (R100, R105, R107), what the argument `PUBLISH_REQUIRES_CRC` decides (R106), and the host's poll cycles
(R110, R123). -/

namespace Sys2Proof.Machine

/-! ### The commands, branch by branch -/

/-- The request of the current sensor sent, and its response awaited (rule R102). -/
def State.sendRequest (s : State) : State :=
  { s with tx := s.tx ++ [reqTable s.blk.idx], blk.pst := .awaitingResponse }

theorem work_preq_of_idle {s : State} (hp : s.blk.pst = .idle) : work .preq s = s.sendRequest :=
  if_neg (not_not.mpr hp)

theorem work_preq_of_not_idle {s : State} (hp : s.blk.pst ≠ .idle) : work .preq s = s.raise .sequence := if_pos hp

theorem work_ptmo_of_awaiting {s : State} (hp : s.blk.pst = .awaitingResponse) : work .ptmo s = s.endTimeout :=
  if_neg (not_not.mpr hp)

theorem work_ptmo_of_not_awaiting {s : State} (hp : s.blk.pst ≠ .awaitingResponse) :
    work .ptmo s = s.raise .sequence := if_pos hp

theorem work_prsp_of_not_awaiting {s : State} (hp : s.blk.pst ≠ .awaitingResponse) :
    work .prsp s = s.raise .sequence := if_pos hp

/-- On an empty frame the two commands that end a cycle have the same branches (rule R108). -/
theorem work_prsp_of_empty {s : State} (hl : s.blk.flen = 0) : work .prsp s = work .ptmo s := by
  simp only [work, if_pos hl]

/-! ### `PREQ` and `PTMO` -/

theorem exec_preq_of_idle {s : State} (hs : s.Running) (hp : s.blk.pst = .idle) :
    exec .preq s = .next s.sendRequest := by
  rw [exec_of_running hs, work_preq_of_idle hp]

/-- Settles O38: the work of `PREQ` is one request and the move of `PST`, or the fault of its check. -/
theorem preqSendsTheCurrentRequest : Obligations.PreqSendsTheCurrentRequest := by
  unfold Obligations.PreqSendsTheCurrentRequest
  refine ⟨decodeWord_of_encode rfl, illegalWordsFault_of_plainOps (by decide), fun s hs hp => exec_preq_of_idle hs hp,
    fun s hs hp => ?_, State.reset.sendRequest, exec_preq_of_idle rfl rfl, rfl, rfl⟩
  rw [exec_of_running hs, work_preq_of_not_idle hp, State.raise_of_running hs]

theorem exec_ptmo_of_awaiting {s : State} (hs : s.Running) (hp : s.blk.pst = .awaitingResponse) :
    exec .ptmo s = .next s.endTimeout := by
  rw [exec_of_running hs, work_ptmo_of_awaiting hp]

/-- Settles O39: the work of `PTMO` is the end of a cycle without data, or the fault of its check. -/
theorem ptmoEndsTheCycleSilently : Obligations.PtmoEndsTheCycleSilently := by
  unfold Obligations.PtmoEndsTheCycleSilently
  refine ⟨decodeWord_of_encode rfl, illegalWordsFault_of_plainOps (by decide),
    fun s hs hp => exec_ptmo_of_awaiting hs hp, fun s hs hp => ?_⟩
  rw [exec_of_running hs, work_ptmo_of_not_awaiting hp, State.raise_of_running hs]

theorem exec_prsp_of_empty {s : State} (hl : s.blk.flen = 0) : exec .prsp s = exec .ptmo s := by
  simp only [exec_eq_whenRunning, whenRunning, work_prsp_of_empty hl]

/-- On an empty response the cycle ends as a timeout does (rules R104, R108). -/
theorem exec_prsp_of_awaiting_empty {s : State} (hs : s.Running) (hp : s.blk.pst = .awaitingResponse)
    (hl : s.blk.flen = 0) : exec .prsp s = .next s.endTimeout := by
  rw [exec_prsp_of_empty hl, exec_ptmo_of_awaiting hs hp]

/-- Settles O41: the branches of the two commands agree, and a timeout writes `PLAST` and `PST` alone. -/
theorem emptyResponseIsATimeout : Obligations.EmptyResponseIsATimeout := by
  unfold Obligations.EmptyResponseIsATimeout
  exact ⟨fun s hl => exec_prsp_of_empty hl, fun s hs hl hp =>
    ⟨s.endTimeout, exec_prsp_of_awaiting_empty hs hp hl, rfl, rfl, rfl, rfl, rfl, rfl, rfl⟩⟩

/-! ### `PRSP` -/

/-- A reading is published unless the argument asks for a frame that verifies and it does not (rules R104 step 2, R106). -/
theorem append_published_ok (es : List Event) (cfg : Config) (idx : Fin 3) (kind : ReadingKind) (v : U32) (b : Bool) :
    es ++ published cfg idx (.ok (kind, v)) b =
      if cfg.publishRequiresCrc = false ∨ b = true then es ++ [⟨idx, kind, v⟩] else es := by
  simp [published, apply_ite (es ++ ·)]

/-- What a verification leaves in `ACC`, by the frame (rule R74). -/
theorem State.ite_flen_lt_acc (s : State) :
    (if s.blk.flen < 5 then s.blk.acc else crc16 (s.frameTake (s.blk.flen - 2))) =
      if 5 ≤ s.blk.flen then crc16 (s.frame.take (s.blk.flen - 2)) else s.blk.acc := by
  simp only [← not_le, ite_not, State.frame_take s (Nat.sub_le _ 2)]

theorem exec_prsp_of_response {s : State} (hs : s.Running) (hp : s.blk.pst = .awaitingResponse)
    (hl : s.blk.flen ≠ 0) : exec .prsp s = .next s.processResponse := by
  rw [exec_of_running hs, work_prsp_of_response hp hl]

/-- A response loaded into the buffer of a block that awaits it is processed as the frame (rules R110, R123). -/
theorem execAll_load_prsp {s : State} (hs : s.Running) (hp : s.blk.pst = .awaitingResponse) {bs : List Byte}
    (hne : bs ≠ []) (hlen : bs.length ≤ s.cfg.frameMax) :
    ∃ u : State, execAll (loadFrameCommands bs ++ [.prsp]) s = .next u.processResponse ∧ u.frame = bs ∧
      u = { s with blk.fb := u.blk.fb, blk.flen := bs.length } := by
  obtain ⟨u, hload, hframe, hu⟩ := loadingPutsTheBytesInTheFrame s bs hs hlen
  have hprsp : exec .prsp u = .next u.processResponse := by
    refine exec_prsp_of_response (by rw [hu]; exact hs) (by rw [hu]; exact hp) ?_
    rw [← State.frame_length, hframe]
    exact mt List.length_eq_zero_iff.mp hne
  exact ⟨u, (execAll_append hload _).trans (execAll_cons hprsp []), hframe, hu⟩

/-- The response of the worked example of rule R104. -/
def exampleResponse : List Byte := [0x01, 0x03, 0x04, 0x00, 0x01, 0x00, 0x02, 0x2A, 0x32]

theorem crc16_exampleResponse : crc16 (exampleResponse.take (9 - 2)) = 0x322A := by decide +kernel

theorem verify_exampleResponse : verify exampleResponse = true := by
  rw [verify_of_long (by decide)]
  exact decide_eq_true crc16_exampleResponse

/-- A whole cycle from reset, with the response of the worked example (rule R104). -/
theorem exampleCycle_result : ∃ t,
    execAll (.preq :: loadFrameCommands exampleResponse ++ [.prsp]) State.reset = .next t ∧ t.evt = [⟨0, .int32, 0x00010002⟩] ∧
    t.blk.vok = true ∧ t.blk.acc = 0x322A ∧ t.blk.idx = 1 ∧ t.blk.plast = .validated ∧ t.blk.pst = .idle := by
  obtain ⟨u, hrun, hframe, hu⟩ := execAll_load_prsp (s := State.reset.sendRequest) (bs := exampleResponse) rfl rfl
    (by decide) (by decide)
  have hread : decodeReading exampleResponse = .ok (.int32, 0x00010002) := by decide
  have hlen : u.blk.flen = 9 := by rw [hu]; rfl
  refine ⟨u.processResponse, (execAll_cons (exec_preq_of_idle rfl rfl) _).trans hrun, ?_⟩
  rw [State.processResponse_eq, State.ite_flen_lt_acc, hlen, if_pos (by decide : 5 ≤ 9), hframe, hread,
    verify_exampleResponse, crc16_exampleResponse, hu]
  exact ⟨rfl, rfl, rfl, rfl, rfl, rfl⟩

/-- Settles O40: `PRSP` faults, times out or processes the response, and the decode says which event there is. -/
theorem prspDecodesPublishesVerifiesAdvances : Obligations.PrspDecodesPublishesVerifiesAdvances := by
  unfold Obligations.PrspDecodesPublishesVerifiesAdvances
  refine ⟨decodeWord_of_encode rfl, illegalWordsFault_of_plainOps (by decide), fun s hs hp => ?sequence,
    fun s hs hp hl => exec_prsp_of_awaiting_empty hs hp hl, fun s kind v hs hp hl hr => ?reading,
    fun s e hs hp hl hr => ?error, rfl, exampleCycle_result, verify_samples.1, by decide⟩
  case sequence => rw [exec_of_running hs, work_prsp_of_not_awaiting hp, State.raise_of_running hs]
  case reading =>
    rw [exec_prsp_of_response hs hp hl, State.processResponse_eq, hr, append_published_ok, State.ite_flen_lt_acc]
    rfl
  case error =>
    rw [exec_prsp_of_response hs hp hl, State.processResponse_eq, hr, State.ite_flen_lt_acc, published, List.append_nil]
    rfl

/-! ### What a step moves of the Poll Sequencer -/

/-- The elements that a step can change other than by a command of the Poll Sequencer or a reset: all but `IDX`, `PST`,
`PLAST`, the two outputs and the parameters. -/
def otherElements : List Element :=
  [.acc, .vok, .fb, .flen, .rkind, .rval, .derr, .fault, .fcause, .rd, .pending, .freeCtr]

/-- The commands of the Poll Sequencer. -/
def pollCommands : List Instr := [.preq, .prsp, .ptmo]

theorem writes_subset_otherElements {i : Instr} (h : i ∉ pollCommands) : writes i ⊆ otherElements := by
  cases i with
  | preq | prsp | ptmo => simp [pollCommands] at h
  | _ => simp [writes, otherElements]

theorem State.setPending_changesOnly (s : State) (q : List HostAct) :
    ChangesOnly otherElements s { s with pending := q } := by
  intro e he
  cases e with
  | pending => simp [otherElements] at he
  | fb => exact ⟨rfl, fun _ => rfl⟩
  | _ => rfl

theorem State.read_changesOnly (s : State) (v : U32) (q : List HostAct) :
    ChangesOnly otherElements s { s with rd := s.rd ++ [v], freeCtr := s.freeCtr + 1, pending := q } := by
  intro e he
  cases e with
  | rd | freeCtr | pending => simp [otherElements] at he
  | fb => exact ⟨rfl, fun _ => rfl⟩
  | _ => rfl

/-- All that a step can do to the elements of the Poll Sequencer: it resets them, or it carries out one of the commands
that write them, or it leaves them. -/
theorem step_cases_poll {s t : State} (h : step s = .next t) :
    (∃ q, s.pending = .reset :: q ∧ t.blk = Block.reset) ∨
    (∃ w q, ∃ i ∈ pollCommands, s.pending = .command w :: q ∧ encode i = .word w ∧ s.Running ∧
      t = (work i s).withPending q) ∨
    ChangesOnly otherElements s t := by
  rcases step_cases h with ⟨-, rfl⟩ | ⟨q, hp, rfl⟩ | ⟨n, q, -, rfl⟩ | ⟨w, q, hp, hw⟩
  · exact .inr (.inr fun e _ => Agree.refl _ e)
  · exact .inl ⟨q, hp, rfl⟩
  · exact .inr (.inr (s.read_changesOnly _ q))
  · have hq := s.setPending_changesOnly q
    rcases runWord_cases hw with ⟨-, rfl⟩ | ⟨hs, -, rfl⟩ | ⟨hs, i, hi, rfl⟩
    · exact .inr (.inr hq)
    · rw [← State.raise_of_running hs]
      exact .inr (.inr ((hq.trans (State.raise_changesOnly _ _)).mono (by decide)))
    · by_cases hpoll : i ∈ pollCommands
      · exact .inr (.inl ⟨w, q, i, hpoll, hp, encode_of_decodeWord hi, hs, work_withPending i s q⟩)
      · refine .inr (.inr ((hq.trans (work_changesOnly _ i)).mono ?_))
        exact List.append_subset.mpr ⟨List.Subset.refl _, writes_subset_otherElements hpoll⟩

/-- `PRSP` moves the index when it processes a response that verifies, and to the next sensor (rule R105). -/
theorem work_prsp_idx {s : State} (h : (work .prsp s).blk.idx ≠ s.blk.idx) :
    s.blk.pst = .awaitingResponse ∧ verify s.frame = true ∧ (work .prsp s).blk.idx = nextIdx s.blk.idx := by
  by_cases hp : s.blk.pst = .awaitingResponse
  · by_cases hl : s.blk.flen = 0
    · rw [work_prsp_of_empty hl, work_ptmo_of_awaiting hp] at h
      exact absurd rfl h
    · rw [work_prsp_of_response hp hl, State.processResponse_eq] at h ⊢
      have hv : verify s.frame = true := by
        by_contra hv
        exact h (if_neg hv)
      exact ⟨hp, hv, if_pos hv⟩
  · rw [work_prsp_of_not_awaiting hp] at h
    exact absurd (s.raise_changesOnly .sequence .idx (by decide)) h

theorem nextIdx_val (k : Fin 3) : (nextIdx k).val = (k.val + 1) % 3 := Fin.val_add k 1

/-- Settles O42: of the commands of the Poll Sequencer, `PRSP` alone writes `IDX`. -/
theorem indexMovesOnlyByAVerifiedResponse : Obligations.IndexMovesOnlyByAVerifiedResponse := by
  unfold Obligations.IndexMovesOnlyByAVerifiedResponse
  intro s t hstep hidx
  rcases step_cases_poll hstep with ⟨q, hp, ht⟩ | ⟨w, q, i, hi, hp, hw, hs, rfl⟩ | hothers
  · exact .inl ⟨q, hp, by rw [ht]; rfl⟩
  · have hwrites : .idx ∈ writes i := by
      by_contra hnot
      exact hidx (work_changesOnly s i .idx hnot)
    cases i with
    | prsp =>
      cases hw
      obtain ⟨hpst, hv, hnext⟩ := work_prsp_idx hidx
      exact .inr ⟨q, hp, hs, hpst, hv, (congrArg Fin.val hnext).trans (nextIdx_val _)⟩
    | _ => simp [writes] at hwrites
  · exact absurd (hothers .idx (by decide)) hidx

/-- A command that ends a cycle leaves `Idle` and records how the cycle ended (rules R103, R104). -/
def State.CycleEnded (s : State) : Prop := s.blk.pst = .idle ∧ s.blk.plast ≠ .none

theorem State.endTimeout_ended (s : State) : s.endTimeout.CycleEnded := ⟨rfl, nofun⟩

theorem State.processResponse_ended (s : State) : s.processResponse.CycleEnded := by
  rw [State.processResponse_eq]
  refine ⟨rfl, ?_⟩
  cases verify s.frame with
  | true | false => nofun

theorem work_prsp_ended {s : State} (hp : s.blk.pst = .awaitingResponse) : (work .prsp s).CycleEnded := by
  by_cases hl : s.blk.flen = 0
  · rw [work_prsp_of_empty hl, work_ptmo_of_awaiting hp]
    exact s.endTimeout_ended
  · rw [work_prsp_of_response hp hl]
    exact s.processResponse_ended

/-- The transitions of rule R100, for a command word that the host presents: what it did from `s` to `t`. -/
def State.PollTransition (s t : State) (w : U16) : Prop :=
  (s.blk.pst = .idle ∧ w = 0x9000 ∧ t.blk.pst = .awaitingResponse ∧ t.tx = s.tx ++ [reqTable s.blk.idx]) ∨
  (s.blk.pst = .awaitingResponse ∧ (w = 0xA000 ∨ w = 0xB000) ∧ t.CycleEnded)

/-- A command of the Poll Sequencer makes one of the transitions, or its check raises a fault (rules R102 to R104). -/
theorem work_poll_cases {i : Instr} (hi : i ∈ pollCommands) {w : U16} (hw : encode i = .word w) (s : State) :
    s.PollTransition (work i s) w ∨ work i s = s.raise .sequence := by
  cases i with
  | preq =>
    cases hw
    by_cases hp : s.blk.pst = .idle
    · rw [work_preq_of_idle hp]
      exact .inl (.inl ⟨hp, rfl, rfl, rfl⟩)
    · exact .inr (work_preq_of_not_idle hp)
  | prsp =>
    cases hw
    by_cases hp : s.blk.pst = .awaitingResponse
    · exact .inl (.inr ⟨hp, .inl rfl, work_prsp_ended hp⟩)
    · exact .inr (work_prsp_of_not_awaiting hp)
  | ptmo =>
    cases hw
    by_cases hp : s.blk.pst = .awaitingResponse
    · rw [work_ptmo_of_awaiting hp]
      exact .inl (.inr ⟨hp, .inr rfl, s.endTimeout_ended⟩)
    · exact .inr (work_ptmo_of_not_awaiting hp)
  | _ => simp [pollCommands] at hi

/-- Without a reset, a step makes a transition of the Poll Sequencer or leaves its elements (rule R100). -/
theorem step_transition_or_leaves {s t : State} (h : step s = .next t) (hreset : ∀ q, s.pending ≠ .reset :: q) :
    (∃ w q, s.pending = .command w :: q ∧ s.PollTransition t w) ∨ ChangesOnly otherElements s t := by
  rcases step_cases_poll h with ⟨q, hp, -⟩ | ⟨w, q, i, hi, hp, hw, -, rfl⟩ | hothers
  · exact absurd hp (hreset q)
  · rcases work_poll_cases hi hw s with hmove | hfault
    · exact .inl ⟨w, q, hp, hmove⟩
    · rw [hfault]
      exact .inr (((s.raise_changesOnly _).trans (State.setPending_changesOnly _ q)).mono (by decide))
  · exact .inr hothers

/-- Settles O43: a transition says what it transmitted or recorded, and a step without one leaves `PST`, `PLAST` and the
outputs. -/
theorem pollStateMovesOnlyByPollCommands : Obligations.PollStateMovesOnlyByPollCommands := by
  unfold Obligations.PollStateMovesOnlyByPollCommands
  intro s t hstep hreset
  rcases step_transition_or_leaves hstep hreset with
    ⟨w, q, hp, ⟨hpst, rfl, hwaits, htx⟩ | ⟨hpst, hw, hidle, hplast⟩⟩ | hothers
  · refine ⟨fun _ => .inl ⟨hpst, ⟨q, hp⟩, htx⟩, fun hsame => ?_⟩
    rw [hwaits, hpst] at hsame
    cases hsame
  · refine ⟨fun _ => .inr ⟨hpst, hplast, q, ?_⟩, fun hsame => ?_⟩
    · rcases hw with rfl | rfl
      · exact .inl hp
      · exact .inr hp
    · rw [hidle, hpst] at hsame
      cases hsame
  · exact ⟨fun hne => absurd (hothers .pst (by decide)) hne,
      fun _ => ⟨hothers .tx (by decide), hothers .evt (by decide), hothers .plast (by decide)⟩⟩

/-! ### The argument `PUBLISH_REQUIRES_CRC` -/

/-- The state without the argument and the events, the two things in which the states of rule R106 differ. -/
def State.eraseEvents (s : State) : State := { s with cfg.publishRequiresCrc := false, evt := [] }

theorem sameButEvents_iff_eraseEvents {s t : State} : s.SameButEvents t ↔ t.eraseEvents = s.eraseEvents := by
  constructor
  · intro h
    simp [State.eraseEvents, h.frameMax, h.blk, h.tx, h.rd, h.pending, h.freeCtr]
  · intro h
    exact ⟨congrArg (·.cfg.frameMaxParam) h, congrArg (·.blk) h, congrArg (·.tx) h, congrArg (·.rd) h,
      congrArg (·.pending) h, congrArg (·.freeCtr) h⟩

theorem State.eraseEvents_ite {p : Prop} [Decidable p] (s t : State) :
    (if p then s else t).eraseEvents = if p then s.eraseEvents else t.eraseEvents :=
  apply_ite State.eraseEvents p s t

theorem State.raise_eraseEvents (s : State) (c : Fcause) :
    (s.eraseEvents.raise c).eraseEvents = (s.raise c).eraseEvents := by
  unfold State.raise
  rw [State.eraseEvents_ite, State.eraseEvents_ite]
  rfl

/-- A command that can fault does the same without the argument and the events if its work does. -/
theorem State.ite_raise_eraseEvents {s t t' : State} {p : Prop} [Decidable p] {c : Fcause}
    (h : t'.eraseEvents = t.eraseEvents) :
    (if p then s.eraseEvents.raise c else t').eraseEvents = (if p then s.raise c else t).eraseEvents := by
  rw [State.eraseEvents_ite, State.eraseEvents_ite, State.raise_eraseEvents, h]

theorem State.writeDecode_eraseEvents (s : State) (r : Except FrameError Reading) :
    (s.eraseEvents.writeDecode r).eraseEvents = (s.writeDecode r).eraseEvents := by
  cases r with
  | ok | error => rfl

theorem State.writeVerify_eraseEvents (s : State) :
    s.eraseEvents.writeVerify.eraseEvents = s.writeVerify.eraseEvents := by
  unfold State.writeVerify
  rw [State.eraseEvents_ite, State.eraseEvents_ite]
  rfl

/-- The argument reaches the events of a cycle and nothing else (rules R104 step 2, R106). -/
theorem State.processResponse_eraseEvents (s : State) :
    s.eraseEvents.processResponse.eraseEvents = s.processResponse.eraseEvents := by
  have hframe : s.eraseEvents.frame = s.frame := rfl
  have hdecode (r : Except FrameError Reading) : (s.eraseEvents.writeDecode r).blk = (s.writeDecode r).blk :=
    congrArg (·.blk) (s.writeDecode_eraseEvents r)
  rw [State.processResponse_eq, State.processResponse_eq, hframe, hdecode]
  rfl

/-- The work of an instruction, but for the events, does not depend on the argument or on earlier events. -/
theorem work_eraseEvents (i : Instr) (s : State) : (work i s.eraseEvents).eraseEvents = (work i s).eraseEvents := by
  cases i with
  | fclr | cinit | cupd | rd16 | rd32 => rfl
  | fpush | cgen | capp | preq | ptmo => exact State.ite_raise_eraseEvents rfl
  | cvfy => exact s.writeVerify_eraseEvents
  | fdec => exact s.writeDecode_eraseEvents _
  | prsp =>
    refine State.ite_raise_eraseEvents ?_
    rw [State.eraseEvents_ite, State.eraseEvents_ite, State.processResponse_eraseEvents]
    rfl

namespace State.SameButEvents

variable {s t : State}

/-- An operation that does the same without the argument and the events keeps two such states alike. -/
theorem map (h : s.SameButEvents t) {u : State → State}
    (hu : ∀ s, (u s.eraseEvents).eraseEvents = (u s).eraseEvents) : (u s).SameButEvents (u t) := by
  rw [sameButEvents_iff_eraseEvents] at h ⊢
  rw [← hu t, h, hu s]

theorem dequeue (h : s.SameButEvents t) (q : List HostAct) :
    { s with pending := q }.SameButEvents { t with pending := q } := { h with pending := rfl }

theorem pulseReset (h : s.SameButEvents t) : s.pulseReset.SameButEvents t.pulseReset :=
  { h with blk := rfl, tx := rfl, rd := rfl }

theorem statusRegister (h : s.SameButEvents t) (any : Byte) (n : Nat) :
    statusRegister t any n = statusRegister s any n := by
  simp only [Machine.statusRegister, Config.frameMax, h.blk, h.frameMax]

theorem read (h : s.SameButEvents t) (n : Nat) :
    { s with
      rd := s.rd ++ [Machine.statusRegister s (Config.anyByte s.freeCtr) n]
      freeCtr := s.freeCtr + 1 }.SameButEvents
    { t with
      rd := t.rd ++ [Machine.statusRegister t (Config.anyByte t.freeCtr) n]
      freeCtr := t.freeCtr + 1 } :=
  { h with rd := by rw [h.rd, h.freeCtr, h.statusRegister], freeCtr := congrArg (· + 1) h.freeCtr }

theorem runWord (h : s.SameButEvents t) {w : U16} {s' : State} (hs : runWord w s = .next s') :
    ∃ t', runWord w t = .next t' ∧ s'.SameButEvents t' := by
  have hfault : t.blk.fault = s.blk.fault := congrArg (·.fault) h.blk
  rcases decodeWord_cases w with ⟨e, he⟩ | ⟨i, hi⟩
  · rw [runWord_error he] at hs ⊢
    cases hs
    exact ⟨_, rfl, h.map (u := (·.raise .illegalCmd)) fun s => s.raise_eraseEvents _⟩
  · rw [runWord_ok hi, exec_eq_whenRunning] at hs ⊢
    rcases whenRunning_cases hs with ⟨hf, rfl⟩ | ⟨hf, rfl⟩
    · exact ⟨t, whenRunning_of_fault (hfault.trans hf) _, h⟩
    · exact ⟨_, whenRunning_of_running (hfault.trans hf) _, h.map (work_eraseEvents i)⟩

theorem step (h : s.SameButEvents t) {s' : State} (hs : step s = .next s') :
    ∃ t', Machine.step t = .next t' ∧ s'.SameButEvents t' := by
  rcases step_cases hs with ⟨hp, rfl⟩ | ⟨q, hp, rfl⟩ | ⟨n, q, hp, rfl⟩ | ⟨w, q, hp, hw⟩
  · exact ⟨t, step_nil (h.pending.trans hp), h⟩
  · exact ⟨_, step_cons (h.pending.trans hp), (h.dequeue q).pulseReset⟩
  · exact ⟨_, step_cons (h.pending.trans hp), (h.dequeue q).read n⟩
  · rw [step_cons (h.pending.trans hp)]
    exact (h.dequeue q).runWord hw

end State.SameButEvents

/-- The events `PRSP` emits from a state (rule R104). -/
def State.prspEvents (s : State) : List Event :=
  if s.Running ∧ s.blk.pst = .awaitingResponse ∧ s.blk.flen ≠ 0 then
    published s.cfg s.blk.idx (decodeReading s.frame) (verify s.frame)
  else []

theorem exec_prsp_evt {s t : State} (h : exec .prsp s = .next t) : t.evt = s.evt ++ s.prspEvents := by
  rcases exec_cases h with ⟨hf, rfl⟩ | ⟨hs, rfl⟩
  · simp [State.prspEvents, hf]
  · by_cases hp : s.blk.pst = .awaitingResponse
    · by_cases hl : s.blk.flen = 0
      · rw [work_prsp_of_empty hl, work_ptmo_of_awaiting hp]
        simp [State.prspEvents, hl]
      · rw [work_prsp_of_response hp hl, State.processResponse_eq]
        simp [State.prspEvents, hs, hp, hl]
    · have hevt : (s.raise .sequence).evt = s.evt := s.raise_changesOnly _ .evt (by decide)
      rw [work_prsp_of_not_awaiting hp, hevt]
      simp [State.prspEvents, hp]

/-- With the argument set, a reading of a frame that verifies is published as without it, and no other (rule R106). -/
theorem published_of_publishRequiresCrc {cfg : Config} (h : cfg.publishRequiresCrc = false) (idx : Fin 3)
    (r : Except FrameError Reading) (v : Bool) :
    published { cfg with publishRequiresCrc := true } idx r v = if v = true then published cfg idx r v else [] := by
  cases r with
  | ok => simp [published, h]
  | error => simp [published]

theorem State.prspEvents_of_publishRequiresCrc {s : State} (h : s.cfg.publishRequiresCrc = false) :
    { s with cfg.publishRequiresCrc := true }.prspEvents = if verify s.frame = true then s.prspEvents else [] := by
  by_cases hc : s.Running ∧ s.blk.pst = .awaitingResponse ∧ s.blk.flen ≠ 0
  · have hemits : s.prspEvents = published s.cfg s.blk.idx (decodeReading s.frame) (verify s.frame) := if_pos hc
    rw [hemits]
    exact (if_pos hc).trans (published_of_publishRequiresCrc h _ _ _)
  · have hnone : s.prspEvents = [] := if_neg hc
    rw [hnone, ite_self]
    exact if_neg hc

/-- Settles O44: the argument stands in the test for publishing and nowhere else. -/
theorem publishArgumentGatesEventsOnly : Obligations.PublishArgumentGatesEventsOnly := by
  unfold Obligations.PublishArgumentGatesEventsOnly
  refine ⟨fun s t s' h hs => h.step hs, fun s t t' hcfg ht ht' => ?_⟩
  rw [exec_prsp_evt ht, exec_prsp_evt ht', State.prspEvents_of_publishRequiresCrc hcfg]
  split
  · rfl
  · exact List.append_nil _

/-! ### The host's cycles -/

/-- What a cycle of the host's procedure, or the part of it from the response on, leaves (rules R104, R110): the index has
moved if the bytes received verify, and the frames of the list were sent. -/
structure State.CycleDone (s : State) (received : List Byte) (sent : List (List Byte)) (t : State) : Prop where
  cfg : t.cfg = s.cfg
  running : t.Running
  pst : t.blk.pst = .idle
  idx : t.blk.idx.val = (s.blk.idx.val + if verify (received.take s.cfg.frameMax) = true then 1 else 0) % 3
  tx : t.tx = s.tx ++ sent

theorem State.endTimeout_cycleDone {s : State} (hs : s.Running) : s.CycleDone [] [] s.endTimeout where
  cfg := rfl
  running := hs
  pst := rfl
  idx := by
    rw [List.take_nil, verify_of_short (by decide)]
    exact (Nat.mod_eq_of_lt s.blk.idx.isLt).symm
  tx := (List.append_nil _).symm

/-- The index after a response, as a number (rule R105). -/
theorem State.processResponse_idx_val (s : State) : s.processResponse.blk.idx.val =
    (s.blk.idx.val + if verify s.frame = true then 1 else 0) % 3 := by
  rw [State.processResponse_eq]
  cases verify s.frame with
  | true => exact nextIdx_val _
  | false => exact (Nat.mod_eq_of_lt s.blk.idx.isLt).symm

/-- The response in the buffer of a block that differs from `s` in its buffer alone. -/
theorem State.processResponse_cycleDone {s u : State} (hs : s.Running) {received : List Byte}
    (hframe : u.frame = received.take s.cfg.frameMax)
    (hu : u = { s with blk.fb := u.blk.fb, blk.flen := u.blk.flen }) : s.CycleDone received [] u.processResponse where
  cfg := by
    have hcfg : u.cfg = s.cfg := congrArg (·.cfg) hu
    rw [← hcfg]
    exact u.processResponse_changesOnly .cfg (by decide)
  running := State.processResponse_running ((congrArg (·.blk.fault) hu).trans hs)
  pst := u.processResponse_ended.1
  idx := by
    have hidx : u.blk.idx = s.blk.idx := congrArg (·.blk.idx) hu
    rw [State.processResponse_idx_val, hframe, hidx]
  tx := by
    have htx : u.tx = s.tx := congrArg (·.tx) hu
    rw [List.append_nil, ← htx]
    exact u.processResponse_changesOnly .tx (by decide)

/-- The part of a cycle from the response on runs to its end, whatever arrives (rules R110, R114). -/
theorem execAll_answer {s : State} (hs : s.Running) (hp : s.blk.pst = .awaitingResponse) (received : List Byte) :
    ∃ t, execAll (if received = [] then [.ptmo] else loadFrameCommands (received.take s.cfg.frameMax) ++ [.prsp]) s =
      .next t ∧ s.CycleDone received [] t := by
  by_cases hr : received = []
  · rw [if_pos hr, execAll_cons (exec_ptmo_of_awaiting hs hp), hr]
    exact ⟨_, rfl, State.endTimeout_cycleDone hs⟩
  · have hmax : 9 ≤ s.cfg.frameMax := s.cfg.frameMaxParam.property.1
    have hne : received.take s.cfg.frameMax ≠ [] := by
      rw [Ne, List.take_eq_nil_iff]
      exact not_or.mpr ⟨by omega, hr⟩
    obtain ⟨u, hrun, hframe, hu⟩ := execAll_load_prsp hs hp hne (List.length_take_le _ _)
    rw [← hframe, State.frame_length] at hu
    rw [if_neg hr]
    exact ⟨_, hrun, State.processResponse_cycleDone hs hframe hu⟩

/-- A cycle of the host's procedure runs to its end, whatever arrives: the request, and then the rest (rule R110). -/
theorem execAll_pollCycle {s : State} (hs : s.Running) (hp : s.blk.pst = .idle) (received : List Byte) :
    ∃ t, execAll (pollCycleCommands s.cfg received) s = .next t ∧ s.CycleDone received [reqTable s.blk.idx] t := by
  obtain ⟨t, hrest, hdone⟩ := execAll_answer (s := s.sendRequest) hs rfl received
  refine ⟨t, (execAll_cons (exec_preq_of_idle hs hp) _).trans hrest, { hdone with tx := ?_ }⟩
  rw [hdone.tx, List.append_nil]
  rfl

/-- Settles O46, by induction on the responses: each cycle ends where the next can start. -/
theorem pollCyclesCountVerifiedResponses : Obligations.PollCyclesCountVerifiedResponses := by
  unfold Obligations.PollCyclesCountVerifiedResponses
  intro s rs
  simp only [← List.countP_eq_length_filter]
  induction rs generalizing s with
  | nil => exact fun hs hp => ⟨s, rfl, hs, hp, (Nat.mod_eq_of_lt s.blk.idx.isLt).symm, rfl⟩
  | cons r rs ih =>
    intro hs hp
    obtain ⟨t, hcycle, hdone⟩ := execAll_pollCycle hs hp r
    obtain ⟨u, hrest, hrun, hidle, hidx, htx⟩ := ih t hdone.running hdone.pst
    rw [hdone.cfg] at hrest hidx
    refine ⟨u, ?_, hrun, hidle, ?_, ?_⟩
    · rw [List.flatMap_cons, execAll_append hcycle, hrest]
    · rw [hidx, hdone.idx, Nat.mod_add_mod, List.countP_cons, Nat.add_assoc, Nat.add_comm (ite _ _ _)]
    · rw [htx, hdone.tx, List.length_append, List.length_singleton, List.length_cons, Nat.add_assoc, Nat.add_comm 1]

end Sys2Proof.Machine
end

section
/-! PROOFS. The statements of spec/43_buffer_commands.md: the two commands of the frame buffer (rules R120, R121). -/

namespace Sys2Proof.Machine

/-! ### `FPUSH` -/

theorem work_fpush_of_full {s : State} (h : s.blk.flen = s.cfg.frameMax) (b : Byte) :
    work (.fpush b) s = s.raise .bufOverflow := if_pos h

theorem work_fpush_of_room {s : State} (h : s.blk.flen ≠ s.cfg.frameMax) (b : Byte) :
    work (.fpush b) s = s.append b := if_neg h

/-- Settles O20: on a full buffer the check raises `BUF_OVERFLOW`; with room the work of `FPUSH` is one append. -/
theorem fpushAppendsOneByte : Obligations.FpushAppendsOneByte := by
  unfold Obligations.FpushAppendsOneByte
  refine ⟨fun b => ?word, illegalWordsFault_of_plainOps (by decide), fun s b hs h => ?full, fun s b hs h => ?room⟩
  case word => exact decodeWord_of_encode (congrArg Code.word (cmdWord_eq_or 0x2 b))
  case full => rw [exec_of_running hs, work_fpush_of_full h, State.raise_of_running hs]
  case room =>
    have hexec : exec (.fpush b) s = .next (s.append b) := by rw [exec_of_running hs, work_fpush_of_room h]
    have hlast : Memory.read (s.append b).blk.fb s.blk.flen = b := Memory.read_write_same _ _ _
    exact ⟨s.append b, hexec, rfl, hlast, fun a ha => s.read_append_other b ha, s.frame_append b⟩

/-! ### `FCLR` -/

/-- Settles O19: the work of `FCLR` is one write of `FLEN`. -/
theorem fclrEmptiesTheFrame : Obligations.FclrEmptiesTheFrame := by
  unfold Obligations.FclrEmptiesTheFrame
  exact ⟨decodeWord_of_encode rfl, illegalWordsFault_of_plainOps (by decide), fun s hs => exec_of_running hs .fclr⟩

end Sys2Proof.Machine
end

section
/-! PROOFS. The statements of spec/60_exceptions.md: the causes of decode errors (rule R132), the faults of command words
(R135 to R137), the faulted block (R138) and the idle one (R147). -/

namespace Sys2Proof.Machine

/-! ### The causes of faults -/

/-- The block has faulted, for the cause `c`. -/
def State.FaultedFor (s : State) (c : Fcause) : Prop := s.blk.fault = true ∧ s.blk.fcause = c

theorem State.not_faultedFor_of_running {s : State} (h : s.Running) (c : Fcause) : ¬ s.FaultedFor c :=
  fun ⟨hf, _⟩ => Bool.false_ne_true (h.symm.trans hf)

theorem State.faulted_faultedFor_iff {s : State} {c d : Fcause} : (s.faulted d).FaultedFor c ↔ c = d :=
  ⟨fun ⟨_, hc⟩ => hc.symm, fun h => ⟨rfl, h.symm⟩⟩

/-- A command whose check raises `d` faults for `d` exactly when the check fails, and for no other cause (rule R136). -/
theorem State.ite_raise_faultedFor_iff {s t : State} {c d : Fcause} {p : Prop} [Decidable p] (hs : s.Running)
    (ht : t.Running) : (if p then s.raise d else t).FaultedFor c ↔ c = d ∧ p := by
  split
  case isTrue hp => rw [State.raise_of_running hs, State.faulted_faultedFor_iff, and_iff_left hp]
  case isFalse hp => exact iff_of_false (State.not_faultedFor_of_running ht c) fun h => hp h.2

/-- The rows of rule R135 that are about commands: the check of `i` fails in `s`, and it raises `c`. -/
def State.CheckFails (s : State) (c : Fcause) : Instr → Prop
  | .fpush _ => c = .bufOverflow ∧ s.blk.flen = s.cfg.frameMax
  | .capp => c = .bufOverflow ∧ s.blk.flen + 2 > s.cfg.frameMax
  | .cgen n => c = .range ∧ n.toNat > s.blk.flen
  | .preq => c = .sequence ∧ s.blk.pst ≠ .idle
  | .prsp => c = .sequence ∧ s.blk.pst ≠ .awaitingResponse
  | .ptmo => c = .sequence ∧ s.blk.pst ≠ .awaitingResponse
  | _ => False

theorem work_faultedFor_iff {s : State} (hs : s.Running) (i : Instr) (c : Fcause) :
    (work i s).FaultedFor c ↔ s.CheckFails c i := by
  cases i with
  | fclr | cinit | cupd | rd16 | rd32 => exact iff_of_false (State.not_faultedFor_of_running hs c) not_false
  | cvfy => exact iff_of_false (State.not_faultedFor_of_running (State.writeVerify_running hs) c) not_false
  | fdec => exact iff_of_false (State.not_faultedFor_of_running (State.writeDecode_running hs _) c) not_false
  | fpush | cgen | capp | preq | ptmo => exact State.ite_raise_faultedFor_iff hs hs
  | prsp =>
    refine State.ite_raise_faultedFor_iff hs ?_
    split
    · exact hs
    · exact State.processResponse_running hs

/-- A word faults as an illegal word, or as the command it decodes to. -/
theorem runWord_faultedFor_iff {s t : State} {w : U16} {c : Fcause} (hs : s.Running) (h : runWord w s = .next t) :
    t.FaultedFor c ↔ (c = .illegalCmd ∧ IllegalByRule w) ∨ ∃ i, decodeWord w = .ok i ∧ s.CheckFails c i := by
  obtain ⟨hillegal, -⟩ := illegalWordsAreThoseOfTheTable
  rw [← hillegal w]
  rcases runWord_cases h with ⟨hf, -⟩ | ⟨-, ⟨e, he⟩, rfl⟩ | ⟨-, i, hi, rfl⟩
  · exact absurd hf (Bool.eq_false_iff.mp hs)
  · simp [State.faulted_faultedFor_iff, he]
  · simp [work_faultedFor_iff hs, hi]

/-- The commands that can fail their checks, row by row of rule R135. -/
theorem exists_checkFails_iff {s : State} {w : U16} {c : Fcause} :
    (∃ i, decodeWord w = .ok i ∧ s.CheckFails c i) ↔
      (c = .bufOverflow ∧ (∃ b, decodeWord w = .ok (.fpush b)) ∧ s.blk.flen = s.cfg.frameMax) ∨
      (c = .bufOverflow ∧ decodeWord w = .ok .capp ∧ s.blk.flen + 2 > s.cfg.frameMax) ∨
      (c = .range ∧ ∃ n : Byte, decodeWord w = .ok (.cgen n) ∧ n.toNat > s.blk.flen) ∨
      (c = .sequence ∧ decodeWord w = .ok .preq ∧ s.blk.pst ≠ .idle) ∨
      (c = .sequence ∧ (decodeWord w = .ok .prsp ∨ decodeWord w = .ok .ptmo) ∧ s.blk.pst ≠ .awaitingResponse) := by
  constructor
  · rintro ⟨i, hi, hfails⟩
    cases i with
    | fpush b => exact .inl ⟨hfails.1, ⟨b, hi⟩, hfails.2⟩
    | capp => exact .inr (.inl ⟨hfails.1, hi, hfails.2⟩)
    | cgen n => exact .inr (.inr (.inl ⟨hfails.1, n, hi, hfails.2⟩))
    | preq => exact .inr (.inr (.inr (.inl ⟨hfails.1, hi, hfails.2⟩)))
    | prsp => exact .inr (.inr (.inr (.inr ⟨hfails.1, .inl hi, hfails.2⟩)))
    | ptmo => exact .inr (.inr (.inr (.inr ⟨hfails.1, .inr hi, hfails.2⟩)))
    | _ => exact hfails.elim
  · rintro (⟨hc, ⟨b, hi⟩, hfull⟩ | ⟨hc, hi, hfull⟩ | ⟨hc, n, hi, hbeyond⟩ | ⟨hc, hi, hp⟩ | ⟨hc, hi | hi, hp⟩)
    · exact ⟨.fpush b, hi, hc, hfull⟩
    · exact ⟨.capp, hi, hc, hfull⟩
    · exact ⟨.cgen n, hi, hc, hbeyond⟩
    · exact ⟨.preq, hi, hc, hp⟩
    · exact ⟨.prsp, hi, hc, hp⟩
    · exact ⟨.ptmo, hi, hc, hp⟩

/-- The codes above 4 are not those of a cause (rule R22). -/
theorem Fcause.bits_not_reserved (c : Fcause) : c.bits ≠ 5 ∧ c.bits ≠ 6 ∧ c.bits ≠ 7 := by
  cases c <;> decide

/-- Settles O9: the faults of a word are those of the word check and of the commands' own checks. -/
theorem faultCausesAreThoseOfTheTable : Obligations.FaultCausesAreThoseOfTheTable := by
  unfold Obligations.FaultCausesAreThoseOfTheTable
  refine ⟨fun s t w c hs h => ?_, rfl, rfl, rfl, rfl, rfl, Fcause.bits_not_reserved⟩
  rw [← exists_checkFails_iff]
  exact runWord_faultedFor_iff hs h

/-! ### What a fault writes -/

/-- Settles O10: of the three ways in which a word ends, one leaves a running block faulted. -/
theorem faultEntryWritesFaultAndCauseOnly : Obligations.FaultEntryWritesFaultAndCauseOnly := by
  unfold Obligations.FaultEntryWritesFaultAndCauseOnly
  refine ⟨fun s c hs => State.raise_of_running hs c, fun s t w hs h hf => ?_⟩
  obtain ⟨-, hways⟩ := everyWordEndsInOneOfThreeWays
  obtain ⟨t', ht', hend⟩ := hways s w
  obtain rfl : t' = t := Host.Outcome.next.inj (ht'.symm.trans h)
  rcases hend with ⟨hfault, -⟩ | ⟨-, hraised⟩ | ⟨-, hruns, -⟩
  · exact absurd hfault (Bool.eq_false_iff.mp hs)
  · exact hraised
  · exact absurd hf (Bool.eq_false_iff.mp hruns)

/-- Settles O11: the word is decoded before any condition is looked at, and `0x5109` has a reserved field that is not
zero. -/
theorem encodingIsCheckedFirst : Obligations.EncodingIsCheckedFirst := by
  unfold Obligations.EncodingIsCheckedFirst
  have hfirst (s : State) (w : U16) (e : IllegalWord) (hs : s.Running) (he : decodeWord w = .error e) :
      step (s.present w) = .next (s.faulted .illegalCmd) := by
    rw [step_present, runWord_error he, State.raise_of_running hs]
  exact ⟨hfirst, fun s hs => hfirst s 0x5109 .reservedBits hs (decodeWord_of_rsv (by decide))⟩

/-! ### The faulted block and the idle one -/

theorem exec_of_fault {s : State} (h : s.blk.fault = true) (i : Instr) : exec i s = .next s := by
  rw [exec_eq_whenRunning, whenRunning_of_fault h]

/-- An illegal word raises no second fault, and a command does nothing. -/
theorem runWord_of_fault {s : State} (h : s.blk.fault = true) (w : U16) : runWord w s = .next s := by
  rcases decodeWord_cases w with ⟨e, he⟩ | ⟨i, hi⟩
  · rw [runWord_error he, State.raise_of_fault h]
  · rw [runWord_ok hi, exec_of_fault h]

/-- Settles O12: a word does nothing, a status read writes the model's own fields, and a step is one of these, idle, or a
reset. -/
theorem faultedBlockIgnoresEveryWord : Obligations.FaultedBlockIgnoresEveryWord := by
  unfold Obligations.FaultedBlockIgnoresEveryWord
  refine ⟨fun s w h => runWord_of_fault h w, fun s i h => exec_of_fault h i,
    fun s n q _ hp => ⟨_, _, step_cons hp, rfl, rfl⟩, fun s t h hstep hreset => ?_⟩
  rcases step_cases hstep with ⟨-, rfl⟩ | ⟨q, hp, -⟩ | ⟨n, q, -, rfl⟩ | ⟨w, q, -, hw⟩
  · rfl
  · exact absurd hp (hreset q)
  · rfl
  · have hsame := runWord_of_fault (s := { s with pending := q }) h w
    obtain rfl := Host.Outcome.next.inj (hsame.symm.trans hw)
    rfl

/-- Settles O5: with nothing presented a step does nothing. -/
theorem idleBlockKeepsItsState : Obligations.IdleBlockKeepsItsState := by
  unfold Obligations.IdleBlockKeepsItsState
  exact fun s hp => step_nil hp

/-! ### The causes of decode errors -/

/-- The rows of rule R132: the frames that give the error, by length and bytes 1 and 2. -/
def ErrorCause (f : List Byte) : FrameError → Prop
  | .unsupportedFunction => f.length < 2 ∨ byteAt f 1 ≠ 0x03
  | .unrecognizedPayloadLength => 3 ≤ f.length ∧ byteAt f 1 = 0x03 ∧ byteAt f 2 ≠ 0x02 ∧ byteAt f 2 ≠ 0x04
  | .frameTooShort => byteAt f 1 = 0x03 ∧ (f.length = 2 ∨ (byteAt f 2 = 0x02 ∧ (f.length = 3 ∨ f.length = 4)) ∨
      (byteAt f 2 = 0x04 ∧ 3 ≤ f.length ∧ f.length ≤ 6))

/-- A frame of each row fails the check of rule R89 for its error, and passes those before it. -/
theorem decodeReading_of_errorCause {f : List Byte} {e : FrameError} (h : ErrorCause f e) :
    decodeReading f = .error e := by
  cases e with
  | unsupportedFunction =>
    rw [decodeReading_eq]
    by_cases hlen : f.length < 2
    · exact if_pos hlen
    · rw [if_neg hlen, if_pos (h.resolve_left hlen)]
  | unrecognizedPayloadLength =>
    obtain ⟨hlen, hfunc, h16, h32⟩ := h
    rw [decodeReading_eq, if_neg (by omega), if_neg (not_not.mpr hfunc), if_neg (by omega), if_neg h16, if_neg h32]
  | frameTooShort =>
    obtain ⟨hfunc, hshort⟩ := h
    rw [decodeReading_eq, if_neg (by omega), if_neg (not_not.mpr hfunc)]
    rcases hshort with hlen | ⟨h16, hlen⟩ | ⟨h32, hlen⟩
    · rw [if_pos (by omega)]
    · rw [if_neg (by omega), if_pos h16, if_pos (by omega)]
    · have h16 : byteAt f 2 ≠ 0x02 := by rw [h32]; decide
      rw [if_neg (by omega), if_neg h16, if_pos h32, if_pos (by omega)]

/-- The rows leave out the frames of the two forms, and no other (rules R51, R132). -/
theorem exists_errorCause_or_ok (f : List Byte) : (∃ e, ErrorCause f e) ∨ ∃ r, decodeReading f = .ok r := by
  by_cases hbad : f.length < 2 ∨ byteAt f 1 ≠ 0x03
  · exact .inl ⟨.unsupportedFunction, hbad⟩
  obtain ⟨hlen, hfunc⟩ := not_or.mp hbad
  have hfunc := not_not.mp hfunc
  by_cases hheader : f.length = 2
  · exact .inl ⟨.frameTooShort, hfunc, .inl hheader⟩
  by_cases h16 : byteAt f 2 = 0x02
  · by_cases hdata : 5 ≤ f.length
    · exact .inr ⟨_, decodeReading_of_header16 hfunc h16 hdata⟩
    · exact .inl ⟨.frameTooShort, hfunc, .inr (.inl ⟨h16, by omega⟩)⟩
  by_cases h32 : byteAt f 2 = 0x04
  · by_cases hdata : 7 ≤ f.length
    · exact .inr ⟨_, decodeReading_of_header32 hfunc h32 hdata⟩
    · exact .inl ⟨.frameTooShort, hfunc, .inr (.inr ⟨h32, by omega⟩)⟩
  · exact .inl ⟨.unrecognizedPayloadLength, by omega, hfunc, h16, h32⟩

theorem decodeReading_eq_error_iff {f : List Byte} {e : FrameError} : decodeReading f = .error e ↔ ErrorCause f e := by
  refine ⟨fun h => ?_, decodeReading_of_errorCause⟩
  rcases exists_errorCause_or_ok f with ⟨e', hcause⟩ | ⟨r, hr⟩
  · obtain rfl : e' = e := Except.error.inj ((decodeReading_of_errorCause hcause).symm.trans h)
    exact hcause
  · rw [hr] at h
    cases h

/-- Settles O32: the rows are exclusive, since each determines the result, and with the two forms they are all frames. -/
theorem decodeErrorsHaveTheirCauses : Obligations.DecodeErrorsHaveTheirCauses := by
  unfold Obligations.DecodeErrorsHaveTheirCauses
  exact ⟨fun f => decodeReading_eq_error_iff, fun f => decodeReading_eq_error_iff,
    fun f => decodeReading_eq_error_iff, rfl, rfl, rfl⟩

end Sys2Proof.Machine
end

section
/-! PROOFS. The statements of spec/70_reset_and_hazards.md: the reset event and its values (rules R150, R151), and the echo of
a request (R164). -/

namespace Sys2Proof.Machine

/-! ### Reset -/

/-- Settles O1: the rows of rule R151, as `Block.reset` and `reqTable` give them. -/
theorem resetGivesEveryElementItsValue : Obligations.ResetGivesEveryElementItsValue := by
  unfold Obligations.ResetGivesEveryElementItsValue
  exact ⟨rfl, rfl, fun _ => rfl, rfl, rfl, rfl, rfl, rfl, rfl, rfl, rfl, rfl, rfl, rfl, rfl⟩

/-- A pulse of `rst` right after reset finds nothing to reset. -/
theorem State.pulseReset_reset : State.reset.pulseReset = State.reset := rfl

/-- Settles O52: the state after reset is one that a pulse of `rst` leaves, and every such state is sound. -/
theorem resetStateIsSound : Obligations.ResetStateIsSound := by
  unfold Obligations.ResetStateIsSound
  rw [← State.pulseReset_reset]
  exact State.Inv.pulseReset _

/-- Settles O2: a step that finds `rst` first pulses it, and any other step of a faulted block leaves the block as it is,
`FAULT` included (rule R138). -/
theorem onlyAResetPulseClearsFault : Obligations.OnlyAResetPulseClearsFault := by
  unfold Obligations.OnlyAResetPulseClearsFault
  refine ⟨fun s q hp => ⟨_, step_cons hp, rfl, rfl, rfl, rfl, rfl, rfl⟩, fun s t hstep hfault hcleared => ?_⟩
  by_contra hreset
  obtain ⟨-, -, -, hkeeps⟩ := faultedBlockIgnoresEveryWord
  have hblk : t.blk = s.blk := hkeeps s t hfault hstep (not_exists.mp hreset)
  rw [hblk, hfault] at hcleared
  cases hcleared

/-! ### An echo of a request -/

theorem reqTable_length (k : Fin 3) : (reqTable k).length = 8 := by
  revert k
  decide

/-- Byte 2 of a request is the high byte of its start address, 0, where a response has its byte-count. -/
theorem decodeReading_reqTable (k : Fin 3) : decodeReading (reqTable k) = .error .unrecognizedPayloadLength := by
  have hheader : byteAt (reqTable k) 1 = 0x03 ∧ byteAt (reqTable k) 2 = 0x00 := by
    revert k
    decide
  obtain ⟨hfunc, hcount⟩ := hheader
  exact decodeReading_of_errorCause ⟨by rw [reqTable_length]; decide, hfunc, by rw [hcount]; decide, by rw [hcount]; decide⟩

/-- Settles O45: what `PRSP` does with a frame that does not decode (rule R104), for one that verifies. -/
theorem echoAdvancesWithoutAnEvent : Obligations.EchoAdvancesWithoutAnEvent := by
  unfold Obligations.EchoAdvancesWithoutAnEvent
  refine ⟨fun k => ⟨verify_reqTable k, decodeReading_reqTable k⟩, fun s k hs hp hecho => ?_⟩
  have hlen : s.blk.flen ≠ 0 := by
    rw [← State.frame_length, hecho, reqTable_length]
    decide
  have hdecode : decodeReading s.frame = .error .unrecognizedPayloadLength := by rw [hecho, decodeReading_reqTable]
  have hverify : verify s.frame = true := by rw [hecho, verify_reqTable]
  obtain ⟨-, -, -, -, -, herror, -⟩ := prspDecodesPublishesVerifiesAdvances
  exact ⟨_, herror s _ hs hp hlen hdecode, if_pos hverify, rfl, if_pos hverify⟩

end Sys2Proof.Machine
end
